-- ==== Sys2Proof/Word.lean ====
section
/-! DEFINITION. The machine's word and byte (spec/00_scope.md R6, R7): every datum of the block is an unsigned 32-bit
word (spec/20_memory.md R51), and bytes occur only where header fields are serialized. -/

namespace Sys2Proof

/-- A word: an unsigned 32-bit value (spec/00_scope.md R7). -/
abbrev Word := BitVec 32

/-- A byte of a serialized header (spec/00_scope.md R9). -/
abbrev Byte := BitVec 8

end Sys2Proof
end

