-- ==== Sys2Proof/Syntax.lean ====
section
/-! DEFINITION. Transactions (spec/30_encoding.md R70), the fifteen opcodes (R75) and the one type of instructions: a legal
command word together with the payload the host sent with it. -/

namespace Sys2Proof

/-- One transaction of the command port: a command word and the payload words sent with it (spec/30_encoding.md R70). -/
structure Transaction where
  cmd : Word
  payload : List Word
  deriving DecidableEq, Repr

/-- The opcodes of spec/30_encoding.md R75, in the table's order. -/
inductive Opcode where
  | nop
  | hdrUpload
  | hdrWrite
  | hdrRead
  | tgtWrite
  | tgtUpload
  | baseWrite
  | dispatch
  | readback
  | templateLoad
  | hdrDecode
  | hash
  | statusRead
  | infoRead
  | reset
  deriving DecidableEq, Repr

/-- An instruction: one of the fifteen commands of spec/opcode_table.json with its operand index, where it has one
(spec/30_encoding.md R73), and the payload words of its transaction. The payload may have any length, since the host may
send any: `Instr.wellFormed` says which length is right and `guarded` answers a wrong one with E_PAYLOAD. -/
inductive Instr where
  | nop (payload : List Word)
  | hdrUpload (payload : List Word)
  | hdrWrite (idx : BitVec 5) (payload : List Word)
  | hdrRead (idx : BitVec 5) (payload : List Word)
  | tgtWrite (idx : BitVec 3) (payload : List Word)
  | tgtUpload (payload : List Word)
  | baseWrite (payload : List Word)
  | dispatch (payload : List Word)
  | readback (payload : List Word)
  | templateLoad (payload : List Word)
  | hdrDecode (payload : List Word)
  | hash (payload : List Word)
  | statusRead (payload : List Word)
  | infoRead (idx : BitVec 4) (payload : List Word)
  | reset (payload : List Word)
  deriving DecidableEq, Repr

/-- The opcode of an instruction. -/
def Instr.opcode : Instr → Opcode
  | .nop _ => .nop
  | .hdrUpload _ => .hdrUpload
  | .hdrWrite _ _ => .hdrWrite
  | .hdrRead _ _ => .hdrRead
  | .tgtWrite _ _ => .tgtWrite
  | .tgtUpload _ => .tgtUpload
  | .baseWrite _ => .baseWrite
  | .dispatch _ => .dispatch
  | .readback _ => .readback
  | .templateLoad _ => .templateLoad
  | .hdrDecode _ => .hdrDecode
  | .hash _ => .hash
  | .statusRead _ => .statusRead
  | .infoRead _ _ => .infoRead
  | .reset _ => .reset

/-- The payload of an instruction's transaction. -/
def Instr.payload : Instr → List Word
  | .nop p => p
  | .hdrUpload p => p
  | .hdrWrite _ p => p
  | .hdrRead _ p => p
  | .tgtWrite _ p => p
  | .tgtUpload p => p
  | .baseWrite p => p
  | .dispatch p => p
  | .readback p => p
  | .templateLoad p => p
  | .hdrDecode p => p
  | .hash p => p
  | .statusRead p => p
  | .infoRead _ p => p
  | .reset p => p

end Sys2Proof
end

