-- ==== Sys2Proof/WellFormed.lean ====
section
/-! DEFINITION. Well-formed instructions: the payload has the length P of the opcode (spec/30_encoding.md R74), and
INFO_READ does not name the reserved index 7 (R73, R76). The other bounds of R73 are in the types of the index fields. -/

namespace Sys2Proof

/-- P of spec/30_encoding.md R74. -/
def Opcode.payloadWords : Opcode → Nat
  | .nop => 0
  | .hdrUpload => 32
  | .hdrWrite => 1
  | .hdrRead => 0
  | .tgtWrite => 1
  | .tgtUpload => 8
  | .baseWrite => 1
  | .dispatch => 1
  | .readback => 0
  | .templateLoad => 20
  | .hdrDecode => 0
  | .hash => 1
  | .statusRead => 0
  | .infoRead => 0
  | .reset => 0

/-- The index of INFO_READ is not the reserved 7 (spec/30_encoding.md R73). -/
def Instr.indexLegal : Instr → Bool
  | .infoRead idx _ => decide (idx ≠ 7)
  | _ => true

/-- A well-formed instruction: the transaction is legal and carries exactly P payload words. -/
def Instr.wellFormed (i : Instr) : Bool :=
  i.indexLegal && decide (i.payload.length = i.opcode.payloadWords)

end Sys2Proof
end

