-- ==== Sys2Proof/Decode.lean ====
section
/-! DEFINITION. The decoder of spec/30_encoding.md R77, total on every transaction and rejecting by name; after it the
encoder, written from the encoding table R75. -/

namespace Sys2Proof

/-- Why a command word is illegal: the cases of spec/30_encoding.md R76. -/
inductive DecodeError where
  | reservedBits
  | reservedOpcode
  | indexBits
  | infoIndexReserved
  deriving DecidableEq, Repr

/-- OP, bits 31:24 of the command word (spec/30_encoding.md R71). -/
def opField (cmd : Word) : BitVec 8 := cmd.extractLsb' 24 8

/-- RSV, bits 23:8 of the command word (spec/30_encoding.md R71). -/
def rsvField (cmd : Word) : BitVec 16 := cmd.extractLsb' 8 16

/-- IDX, bits 7:0 of the command word (spec/30_encoding.md R71). -/
def idxField (cmd : Word) : BitVec 8 := cmd.extractLsb' 0 8

/-- A command without an operand index: IDX must be 0 (spec/30_encoding.md R73). -/
def decodePlain (cmd : Word) (i : Instr) : Except DecodeError Instr :=
  if idxField cmd = 0 then .ok i else .error .indexBits

/-- A command on a header word: IDX[7:5] must be 0 (spec/30_encoding.md R73, R77). -/
def decodeHdrIndex (cmd : Word) (make : BitVec 5 → Instr) : Except DecodeError Instr :=
  if (idxField cmd).extractLsb' 5 3 = 0 then .ok (make ((idxField cmd).extractLsb' 0 5)) else .error .indexBits

/-- TGT_WRITE: IDX[7:3] must be 0 (spec/30_encoding.md R73, R77). -/
def decodeTgtIndex (cmd : Word) (make : BitVec 3 → Instr) : Except DecodeError Instr :=
  if (idxField cmd).extractLsb' 3 5 = 0 then .ok (make ((idxField cmd).extractLsb' 0 3)) else .error .indexBits

/-- INFO_READ: IDX[7:4] must be 0 and IDX ≠ 7 (spec/30_encoding.md R73, R77). -/
def decodeInfoIndex (cmd : Word) (make : BitVec 4 → Instr) : Except DecodeError Instr :=
  if (idxField cmd).extractLsb' 4 4 ≠ 0 then .error .indexBits
  else if idxField cmd = 7 then .error .infoIndexReserved
  else .ok (make ((idxField cmd).extractLsb' 0 4))

/-- The decode procedure of spec/30_encoding.md R77. The payload goes with the command it was sent with: whether it has
the right length is checked when the command is executed (spec/60_exceptions.md R253, check 3). -/
def decode (cmd : Word) (payload : List Word) : Except DecodeError Instr :=
  if rsvField cmd ≠ 0 then .error .reservedBits
  else
    match (opField cmd).toNat with
    | 0x00 => decodePlain cmd (.nop payload)
    | 0x01 => decodePlain cmd (.hdrUpload payload)
    | 0x02 => decodeHdrIndex cmd (fun w => .hdrWrite w payload)
    | 0x03 => decodeHdrIndex cmd (fun w => .hdrRead w payload)
    | 0x04 => decodeTgtIndex cmd (fun k => .tgtWrite k payload)
    | 0x05 => decodePlain cmd (.tgtUpload payload)
    | 0x06 => decodePlain cmd (.baseWrite payload)
    | 0x07 => decodePlain cmd (.dispatch payload)
    | 0x08 => decodePlain cmd (.readback payload)
    | 0x09 => decodePlain cmd (.templateLoad payload)
    | 0x0A => decodePlain cmd (.hdrDecode payload)
    | 0x0B => decodePlain cmd (.hash payload)
    | 0x0C => decodePlain cmd (.statusRead payload)
    | 0x0D => decodeInfoIndex cmd (fun k => .infoRead k payload)
    | 0x0E => decodePlain cmd (.reset payload)
    | _ => .error .reservedOpcode

/-- The opcode numbers of spec/30_encoding.md R75. -/
def Opcode.code : Opcode → BitVec 8
  | .nop => 0x00
  | .hdrUpload => 0x01
  | .hdrWrite => 0x02
  | .hdrRead => 0x03
  | .tgtWrite => 0x04
  | .tgtUpload => 0x05
  | .baseWrite => 0x06
  | .dispatch => 0x07
  | .readback => 0x08
  | .templateLoad => 0x09
  | .hdrDecode => 0x0A
  | .hash => 0x0B
  | .statusRead => 0x0C
  | .infoRead => 0x0D
  | .reset => 0x0E

/-- The IDX field of an instruction (spec/30_encoding.md R73): its operand index zero-extended, 0 where it has none. -/
def Instr.idx : Instr → BitVec 8
  | .hdrWrite w _ => w.setWidth 8
  | .hdrRead w _ => w.setWidth 8
  | .tgtWrite k _ => k.setWidth 8
  | .infoRead k _ => k.setWidth 8
  | _ => 0

/-- The command word of an instruction: OP, sixteen reserved zeros, IDX (spec/30_encoding.md R71, R75). -/
def Instr.word (i : Instr) : Word := i.opcode.code ++ (0 : BitVec 16) ++ i.idx

/-- The transaction of an instruction. -/
def encode (i : Instr) : Transaction := ⟨i.word, i.payload⟩

/-- How many payload words the transaction of a legal command word carries (spec/30_encoding.md R74, "the decoder needs
only bits 31:24 to find P and Q"); 0 for an illegal word. -/
def payloadWordsOf (cmd : Word) : Nat :=
  match decode cmd [] with
  | .ok i => i.opcode.payloadWords
  | .error _ => 0

/-- The transaction whose first `nbits` bits are those of `w` and whose remaining words are zero. -/
def tableTransaction (nbits w : Nat) : Transaction :=
  let cmd := BitVec.ofNat 32 (w % 2 ^ nbits)
  ⟨cmd, List.replicate (payloadWordsOf cmd) 0⟩

/-- What the decoder reads from a row of the opcode table: a command word of bits `w`, and payload words of zeros. -/
def decodeTableWord (nbits w : Nat) : Option Instr :=
  match decode (tableTransaction nbits w).cmd (tableTransaction nbits w).payload with
  | .ok i => some i
  | .error _ => none

end Sys2Proof
end

