-- ==== Sys2Proof/Config.lean ====
section
/-! DEFINITION. What one build of the block fixes (spec/00_scope.md R6, spec/10_state.md R33) and the free values: opaque
constants of which nothing can be proved, one for each thing the spec leaves open. -/

namespace Sys2Proof

/-- How the eight digest words are put before the comparator (spec/00_scope.md R6, spec/42_comparator.md R140). -/
inductive DigestOrder where
  | btc
  | raw
  deriving DecidableEq, Repr

/-- The parameters of spec/00_scope.md R6, fixed when the block is built (spec/10_state.md R33). -/
structure Config where
  /-- CAP, the number of slots of the output buffer. -/
  capacity : Nat
  /-- G, the lane-group size; observable only through INFO_READ 2. -/
  laneGroup : Nat
  digestOrder : DigestOrder
  /-- DEVICE_FAULTS: whether a dispatch, a readback or a HASH may end in E_DEVICE. -/
  deviceFaults : Bool
  /-- ID_WORD, the answer to INFO_READ 0. -/
  idWord : Word
  deriving DecidableEq, Repr

/-- The legal values of spec/00_scope.md R6: 1 ≤ CAP ≤ 2^32 − 1 and 1 ≤ G ≤ 2^32 − 1. -/
def Config.wf (c : Config) : Bool :=
  decide (1 ≤ c.capacity) && decide (c.capacity < 4294967296) &&
  decide (1 ≤ c.laneGroup) && decide (c.laneGroup < 4294967296)

/-- CAP − 1 of this hardware. The spec leaves CAP open (spec/92_eei_decisions.md D3): a free value, safe (log 2). -/
opaque Config.capacityPred : Fin 4294967295

/-- G − 1 of this hardware. The spec leaves G open (spec/92_eei_decisions.md D3): a free value, safe (log 2). -/
opaque Config.laneGroupPred : Fin 4294967295

/-- The build of this hardware: CAP and G open; DIGEST_ORDER, DEVICE_FAULTS and ID_WORD at the values of
spec/00_scope.md R6. -/
def Config.build : Config where
  capacity := Config.capacityPred.val + 1
  laneGroup := Config.laneGroupPred.val + 1
  digestOrder := .btc
  deviceFaults := true
  idWord := 0x44534832

/-- Which agent moves next, for the n-th draw (spec/93_implementation_defined.md U9, U11): a free value, safe (log 4). -/
opaque Config.turnChoice : Nat → Nat

/-- How many turns in a row the command unit may take before a dispatch in flight takes one, for the n-th draw: any number,
but a number, which is the weak fairness of spec/70_reset_and_hazards.md R297. A free value, safe (log 4). -/
opaque Config.patience : Nat → Nat

/-- Whether the environment fails the next READBACK or HASH, for the n-th draw (spec/60_exceptions.md R261, "a draw under
no law"): a free value, safe (log 3). -/
opaque Config.environmentFails : Nat → Bool

/-- What slot j of OUT holds after the dispatch that fails at the n-th draw (spec/43_search_engine.md R179, "the contents
of OUT become unspecified"): a free value, safe (log 11). -/
opaque Config.failedSlot : Nat → Nat → Word

end Sys2Proof
end

