-- ==== Sys2Proof/Machine/State.lean ====
section
/-! DEFINITION. The machine's state as plain data: everything spec/10_state.md R20 gives DSHA-CORE, the response log and the
fields of the free values; the state after reset (spec/70_reset_and_hazards.md R281); the ways a step can stop. -/

namespace Sys2Proof.Machine

/-- A word of a buffer with its written mark (spec/10_state.md R30). The mark is the spec's own state; the value of an
unwritten cell can be read by no command. -/
structure Cell where
  value : Word
  written : Bool
  deriving DecidableEq, Repr

/-- A word-indexed buffer (spec/20_memory.md R50). -/
abbrev Buffer := List Cell

/-- A cell that nothing has written since reset. Its value is the model's (DESIGN CHOICE, log 1). -/
def Cell.unwritten : Cell := ⟨0, false⟩

/-- A cell holding a written word. -/
def Cell.of (w : Word) : Cell := ⟨w, true⟩

/-- Eight words: a chaining state H[0..7], the working variables a..h, or a digest S[0..7] (spec/41_hash_kernel.md R110,
R111; spec/10_state.md R22). -/
structure HashState where
  a : Word
  b : Word
  c : Word
  d : Word
  e : Word
  f : Word
  g : Word
  h : Word
  deriving DecidableEq, Repr

/-- Which of the three compressions a lane is in (spec/10_state.md R21): the two header blocks of pass 1, the padded digest
of pass 2 (spec/41_hash_kernel.md R100). -/
inductive Compression where
  | headerFirst
  | headerSecond
  | digest
  deriving DecidableEq, Repr

/-- The working state of one lane (spec/10_state.md R22) and its position (R21). -/
structure Lane where
  /-- The lane index i. -/
  index : Nat
  /-- The nonce n. -/
  nonce : Word
  /-- The private copy of the 32 message words, with word 19 the nonce. -/
  message : List Word
  /-- The chaining state H[0..7]. -/
  chain : HashState
  /-- The working variables a..h. -/
  work : HashState
  /-- The temporary T1 of the last round. -/
  t1 : Word
  /-- The temporary T2 of the last round. -/
  t2 : Word
  /-- The message schedule W[0..63] of the current compression. -/
  schedule : List Word
  /-- Which compression. -/
  compression : Compression
  /-- The next round t of the compression, 64 when all are done. -/
  round : Nat
  deriving DecidableEq, Repr

/-- STATUS.STATE (spec/10_state.md R31). -/
inductive DevState where
  | idle
  | busy
  | done
  | error
  deriving DecidableEq, Repr

/-- The error codes of spec/60_exceptions.md R250; codes 0x06 to 0xFF are never produced. -/
inductive ErrorCode where
  | none
  | illegalCmd
  | busyHazard
  | lanesOverCap
  | device
  | payload
  deriving DecidableEq, Repr

/-- The agents inside the block that take steps, and the environment that may fail a dispatch
(spec/00_scope.md R11, spec/43_search_engine.md R179). -/
inductive Agent where
  | commandUnit
  /-- The k-th of the lanes still running. -/
  | lane (k : Nat)
  | completion
  | deviceFailure
  deriving DecidableEq, Repr

/-- The state of DSHA-CORE (spec/10_state.md R20). -/
structure State where
  /-- The build-time constants (R33). -/
  cfg : Config
  /-- HDR[0..31] (R24). -/
  hdr : Buffer
  /-- TGT[0..7], most significant word first (R25). -/
  tgt : Buffer
  /-- BASE (R26). -/
  base : Cell
  /-- LC (R27). -/
  lc : Word
  /-- OUT[0..CAP−1] (R28). -/
  out : Buffer
  /-- STATUS.STATE (R29, R31). -/
  state : DevState
  /-- STATUS.ERRCODE (R29). -/
  errcode : ErrorCode
  /-- ERRCMD (R32). -/
  errcmd : Word
  /-- INFLIGHT (R35). -/
  inflight : Bool
  /-- The lanes of the dispatch in flight that have not yet written their slot (R22, R35). -/
  lanes : List Lane
  /-- The command unit's queue, oldest first; its head is the command being executed or held (R21, R35). -/
  queue : List Transaction
  /-- The response words of every completed transaction, oldest first (spec/30_encoding.md R70; the model's own, log 5). -/
  responses : List (List Word)
  /-- How many times free values have been drawn (the model's own, log 4). -/
  draws : Nat
  /-- Free value: which of the agents that can move moves next (the model's own, log 4). -/
  turn : Nat
  /-- Free value, counted down: how many turns the command unit may still take before the dispatch in flight takes one (the
  model's own, for the weak fairness of spec/70_reset_and_hazards.md R297, log 4). -/
  patience : Nat
  /-- Free value: whether the environment fails the next READBACK or HASH (the model's own, log 3). -/
  fails : Bool
  deriving DecidableEq, Repr

/-- The state after power-on reset (spec/70_reset_and_hazards.md R280, R281) of a block built as `cfg`: IDLE, no error, LC 0,
nothing in flight, an empty queue, every word of HDR, TGT, BASE and OUT unwritten. -/
def State.resetOf (cfg : Config) : State where
  cfg := cfg
  hdr := List.replicate 32 Cell.unwritten
  tgt := List.replicate 8 Cell.unwritten
  base := Cell.unwritten
  lc := 0
  out := List.replicate cfg.capacity Cell.unwritten
  state := .idle
  errcode := .none
  errcmd := 0
  inflight := false
  lanes := []
  queue := []
  responses := []
  draws := 0
  turn := 0
  patience := 0
  fails := false

/-- The state after power-on reset of this hardware. -/
def State.reset : State := State.resetOf Config.build

/-- Why the machine stops with a fault. -/
inductive Fault where
  /-- MODEL_UNWRITTEN_READ: a command read a word of HDR, TGT, BASE or OUT that nothing has written since reset. Raised by
  DISPATCH, HASH, HDR_READ, HDR_DECODE, INFO_READ 6 and 8..15 and READBACK. Safe: spec/10_state.md R30 orders it ("a model
  must treat that read as a model fault (MODEL_UNWRITTEN_READ), never as a value"), the hardware goes on with some value. -/
  | modelUnwrittenRead
  deriving DecidableEq, Repr

/-- Why an instruction has no meaning. -/
inductive Refusal where
  /-- Raised by exec's arm of an instruction that is not modelled. Safe: the machine stops. No arm raises it. -/
  | notModelled (mnemonic : String)
  deriving DecidableEq, Repr

/-- What a step or a meaning answers. -/
abbrev Result := Host.Outcome State Fault Refusal

end Sys2Proof.Machine
end

