-- ==== Sys2Proof/Machine/Operands.lean ====
section
/-! DEFINITION. Operand forms: payload words and operand indexes (spec/30_encoding.md R73), and the byte order of words
(spec/00_scope.md R9, spec/20_memory.md R51). -/

namespace Sys2Proof.Machine

/-- Payload word p_k. -/
def payloadWord (payload : List Word) (k : Nat) : Word := payload.getD k 0

/-- loadBE of spec/00_scope.md R9: the word whose most significant byte is the first. -/
def loadBE (b0 b1 b2 b3 : Byte) : Word := b0 ++ b1 ++ b2 ++ b3

/-- BE32 of spec/00_scope.md R9. -/
def be32 (w : Word) : List Byte :=
  [w.extractLsb' 24 8, w.extractLsb' 16 8, w.extractLsb' 8 8, w.extractLsb' 0 8]

/-- LE32 of spec/00_scope.md R9. -/
def le32 (w : Word) : List Byte :=
  [w.extractLsb' 0 8, w.extractLsb' 8 8, w.extractLsb' 16 8, w.extractLsb' 24 8]

/-- bswap32 of spec/00_scope.md R9: the word with its four bytes reversed. -/
def bswap32 (w : Word) : Word :=
  loadBE (w.extractLsb' 0 8) (w.extractLsb' 8 8) (w.extractLsb' 16 8) (w.extractLsb' 24 8)

/-- Bytes packed into words four at a time, the first byte in bits 31:24 (spec/20_memory.md R52, spec/44_header_codec.md
R208); bytes left over after the last full word are dropped. -/
def packBE : List Byte → List Word
  | b0 :: b1 :: b2 :: b3 :: rest => loadBE b0 b1 b2 b3 :: packBE rest
  | _ => []

/-- The bytes of words, each big-endian. -/
def unpackBE (ws : List Word) : List Byte := ws.flatMap be32

/-- The 256-bit (or longer) value of words given most significant word first (spec/00_scope.md R9). -/
def bigEndianValue : List Word → Nat
  | [] => 0
  | w :: ws => w.toNat * 2 ^ (32 * ws.length) + bigEndianValue ws

/-- Words i, …, i + n − 1 of a list, as `W[i..i+n-1]` in the codec's pseudocode. -/
def slice (ws : List Word) (i n : Nat) : List Word := (ws.drop i).take n

end Sys2Proof.Machine
end

