-- ==== Sys2Proof/Machine/HashKernel.lean ====
section
/-! DEFINITION. The double-SHA-256 kernel as pure functions of words (spec/41_hash_kernel.md R100 to R118). The same
definitions serve the lanes, HASH and the host's re-verification (R118). -/

namespace Sys2Proof.Machine

/-- ROTR of spec/00_scope.md R8, for 1 ≤ n ≤ 31. -/
def rotr (x : Word) (n : Nat) : Word := (x >>> n) ||| (x <<< (32 - n))

/-- SHR of spec/00_scope.md R8. -/
def shr (x : Word) (n : Nat) : Word := x >>> n

/-- CH (R103). -/
def ch (x y z : Word) : Word := (x &&& y) ^^^ (~~~x &&& z)

/-- MAJ (R104). -/
def maj (x y z : Word) : Word := (x &&& y) ^^^ (x &&& z) ^^^ (y &&& z)

/-- BSIG0 (R105). -/
def bsig0 (x : Word) : Word := rotr x 2 ^^^ rotr x 13 ^^^ rotr x 22

/-- BSIG1 (R106). -/
def bsig1 (x : Word) : Word := rotr x 6 ^^^ rotr x 11 ^^^ rotr x 25

/-- SSIG0 (R107). -/
def ssig0 (x : Word) : Word := rotr x 7 ^^^ rotr x 18 ^^^ shr x 3

/-- SSIG1 (R108). -/
def ssig1 (x : Word) : Word := rotr x 17 ^^^ rotr x 19 ^^^ shr x 10

/-- The initial hash value IV[0..7] (R101). -/
def initialHash : HashState :=
  ⟨0x6A09E667, 0xBB67AE85, 0x3C6EF372, 0xA54FF53A, 0x510E527F, 0x9B05688C, 0x1F83D9AB, 0x5BE0CD19⟩

/-- The round constants K[0..31] (R102, rows 0 to 3). -/
def roundConstantsLow : List Word :=
  [0x428A2F98, 0x71374491, 0xB5C0FBCF, 0xE9B5DBA5, 0x3956C25B, 0x59F111F1, 0x923F82A4, 0xAB1C5ED5] ++
  [0xD807AA98, 0x12835B01, 0x243185BE, 0x550C7DC3, 0x72BE5D74, 0x80DEB1FE, 0x9BDC06A7, 0xC19BF174] ++
  [0xE49B69C1, 0xEFBE4786, 0x0FC19DC6, 0x240CA1CC, 0x2DE92C6F, 0x4A7484AA, 0x5CB0A9DC, 0x76F988DA] ++
  [0x983E5152, 0xA831C66D, 0xB00327C8, 0xBF597FC7, 0xC6E00BF3, 0xD5A79147, 0x06CA6351, 0x14292967]

/-- The round constants K[32..63] (R102, rows 4 to 7). -/
def roundConstantsHigh : List Word :=
  [0x27B70A85, 0x2E1B2138, 0x4D2C6DFC, 0x53380D13, 0x650A7354, 0x766A0ABB, 0x81C2C92E, 0x92722C85] ++
  [0xA2BFE8A1, 0xA81A664B, 0xC24B8B70, 0xC76C51A3, 0xD192E819, 0xD6990624, 0xF40E3585, 0x106AA070] ++
  [0x19A4C116, 0x1E376C08, 0x2748774C, 0x34B0BCB5, 0x391C0CB3, 0x4ED8AA4A, 0x5B9CCA4F, 0x682E6FF3] ++
  [0x748F82EE, 0x78A5636F, 0x84C87814, 0x8CC70208, 0x90BEFFFA, 0xA4506CEB, 0xBEF9A3F7, 0xC67178F2]

/-- The round constants K[0..63] (R102). -/
def roundConstants : List Word := roundConstantsLow ++ roundConstantsHigh

/-- The first 16 + k words of the message schedule (R109): the block, then k words of the recurrence, word t = 16 + k from
words t − 2, t − 7, t − 15 and t − 16. -/
def scheduleUpTo (block : List Word) : Nat → List Word
  | 0 => block
  | k + 1 =>
    let w := scheduleUpTo block k
    w ++ [ssig1 (w.getD (k + 14) 0) + w.getD (k + 9) 0 + ssig0 (w.getD (k + 1) 0) + w.getD k 0]

/-- SCHEDULE (R109): W[0..63]. -/
def schedule (block : List Word) : List Word := scheduleUpTo block 48

/-- T1 of round t (R110). -/
def roundT1 (w : List Word) (t : Nat) (v : HashState) : Word :=
  v.h + bsig1 v.e + ch v.e v.f v.g + roundConstants.getD t 0 + w.getD t 0

/-- T2 of a round (R110). -/
def roundT2 (v : HashState) : Word := bsig0 v.a + maj v.a v.b v.c

/-- The working variables after a round with the temporaries `t1` and `t2` (R110). -/
def roundShift (t1 t2 : Word) (v : HashState) : HashState :=
  ⟨t1 + t2, v.a, v.b, v.c, v.d + t1, v.e, v.f, v.g⟩

/-- ROUND t (R110). -/
def shaRound (w : List Word) (t : Nat) (v : HashState) : HashState :=
  roundShift (roundT1 w t v) (roundT2 v) v

/-- Rounds 0, …, n − 1 (R111). -/
def shaRounds (w : List Word) : Nat → HashState → HashState
  | 0, v => v
  | t + 1, v => shaRound w t (shaRounds w t v)

/-- The feed-forward additions that end a compression (R111). -/
def feedForward (h v : HashState) : HashState :=
  ⟨h.a + v.a, h.b + v.b, h.c + v.c, h.d + v.d, h.e + v.e, h.f + v.f, h.g + v.g, h.h + v.h⟩

/-- COMPRESS (R111). -/
def compress (h : HashState) (block : List Word) : HashState :=
  feedForward h (shaRounds (schedule block) 64 h)

/-- The words H[0], …, H[7]. -/
def hashWords (h : HashState) : List Word := [h.a, h.b, h.c, h.d, h.e, h.f, h.g, h.h]

/-- The first header block M[0..15]. -/
def firstBlock (m : List Word) : List Word := slice m 0 16

/-- The second header block M[16..31]. -/
def secondBlock (m : List Word) : List Word := slice m 16 16

/-- MID, the chaining state after the first compression (R112). -/
def midstate (m : List Word) : HashState := compress initialHash (firstBlock m)

/-- PASS1 (R112): D1. -/
def pass1 (m : List Word) : HashState := compress (midstate m) (secondBlock m)

/-- PAD_DIGEST (R113): the digest words, the 0x80 marker, zero fill and the bit length 256. -/
def padDigest (d : HashState) : List Word := hashWords d ++ [0x80000000, 0, 0, 0, 0, 0, 0, 0x00000100]

/-- PASS2 (R114). -/
def pass2 (block : List Word) : HashState := compress initialHash block

/-- DSHA256, the whole kernel (R100, R115). -/
def dsha256 (m : List Word) : HashState := pass2 (padDigest (pass1 m))

/-- DSHA256 started from a midstate computed once (R117). -/
def dsha256From (mid : HashState) (block : List Word) : HashState := pass2 (padDigest (compress mid block))

/-- The digest as 32 bytes (R116). -/
def digestBytes (s : HashState) : List Byte := unpackBE (hashWords s)

/-- The message with its word 19 replaced by the nonce (spec/43_search_engine.md R174: `Mw <- HDR; Mw[19] <- n`). -/
def withNonce (m : List Word) (n : Word) : List Word := m.set 19 n

end Sys2Proof.Machine
end

