-- ==== Sys2Proof/Machine/Comparator.lean ====
section
/-! DEFINITION. The target comparator (spec/42_comparator.md R140 to R143). -/

namespace Sys2Proof.Machine

/-- VIEW (R140): the digest words most significant word first. Under BTC V[i] = bswap32(S[7−i]), under RAW V[i] = S[i]. -/
def view (order : DigestOrder) (s : HashState) : List Word :=
  match order with
  | .btc => (hashWords s).reverse.map bswap32
  | .raw => hashWords s

/-- CMP (R141): the word-wise scan that decides at the first unequal word; all words equal passes. -/
def cmpTarget : List Word → List Word → Bool
  | v :: vs, t :: ts => if t < v then false else if v < t then true else cmpTarget vs ts
  | _, _ => true

/-- Whether nonce n passes: CMP(VIEW(DSHA256(M with [19] := n)), T) (spec/43_search_engine.md R174, R178). -/
def noncePasses (order : DigestOrder) (m target : List Word) (n : Word) : Bool :=
  cmpTarget (view order (dsha256 (withNonce m n))) target

end Sys2Proof.Machine
end

