-- ==== Sys2Proof/Machine/Flags.lean ====
section
/-! DEFINITION. The only flags of the block, the fields of STATUS (spec/10_state.md R29, R34). -/

namespace Sys2Proof.Machine

/-- The two bits of STATUS.STATE (spec/10_state.md R31). -/
def DevState.bits : DevState → BitVec 2
  | .idle => 0
  | .busy => 1
  | .done => 2
  | .error => 3

/-- The eight bits of STATUS.ERRCODE (spec/60_exceptions.md R250). -/
def ErrorCode.bits : ErrorCode → BitVec 8
  | .none => 0x00
  | .illegalCmd => 0x01
  | .busyHazard => 0x02
  | .lanesOverCap => 0x03
  | .device => 0x04
  | .payload => 0x05

/-- STATUS of spec/10_state.md R29: STATE in bits 1:0, ERRCODE in bits 15:8, every other bit 0. -/
def State.statusWord (s : State) : Word :=
  (0 : BitVec 16) ++ s.errcode.bits ++ (0 : BitVec 6) ++ s.state.bits

/-- The digest-order word of INFO_READ 3 (spec/10_state.md R33). -/
def digestOrderWord : DigestOrder → Word
  | .btc => 0
  | .raw => 1

end Sys2Proof.Machine
end

