-- ==== Sys2Proof/Machine/Ops.lean ====
section
/-! DEFINITION. The named operations over buffers, the command queue and the error registers: reading and writing words,
completing a transaction, entering and leaving the error state, and the checks every command passes before it runs. -/

namespace Sys2Proof.Machine

/-- A function of the next state, where there is one. -/
def mapNext (f : State → State) : Result → Result
  | .next s => .next (f s)
  | .fault e => .fault e
  | .refused r => .refused r

/-- n response words of zero. -/
def zeros (n : Nat) : List Word := List.replicate n 0

/-- Cell i of a buffer. No legal command names a cell outside its buffer (spec/30_encoding.md R76); outside it a read finds
an unwritten cell (log 19). -/
def cellAt (buf : Buffer) (i : Nat) : Cell := buf.getD i Cell.unwritten

/-- MemRead(BUF, i, n) of spec/00_scope.md R10: the cells BUF[i], …, BUF[i+n−1]. -/
def memRead (buf : Buffer) (i : Nat) : Nat → List Cell
  | 0 => []
  | n + 1 => cellAt buf i :: memRead buf (i + 1) n

/-- MemWrite(BUF, i, n, v) of spec/00_scope.md R10, n the number of words in v: each word written is marked so (R30). -/
def memWrite (buf : Buffer) (i : Nat) : List Word → Buffer
  | [] => buf
  | v :: vs => memWrite (buf.set i (Cell.of v)) (i + 1) vs

/-- The words of cells, whatever their marks. -/
def cellWords (cells : List Cell) : List Word := cells.map Cell.value

/-- Whether every cell has been written. -/
def allWritten (cells : List Cell) : Bool := cells.all Cell.written

/-- Read cells, or stop with MODEL_UNWRITTEN_READ if one was never written (spec/10_state.md R30). -/
def readWords (cells : List Cell) (use : List Word → Result) : Result :=
  if allWritten cells then use (cellWords cells) else .fault .modelUnwrittenRead

/-- The cells of HDR with word 19 replaced by a nonce: word 19 of HDR itself is not read (spec/43_search_engine.md R174,
spec/41_hash_kernel.md R120). -/
def State.messageCells (s : State) (n : Word) : List Cell := (memRead s.hdr 0 32).set 19 (Cell.of n)

/-- The cells of TGT. -/
def State.targetCells (s : State) : List Cell := memRead s.tgt 0 8

/-- The head of the queue leaves it and its response words are returned (spec/30_encoding.md R70, spec/00_scope.md R10
`respond`). -/
def State.complete (s : State) (response : List Word) : State :=
  { s with queue := s.queue.tail, responses := s.responses ++ [response] }

/-- The host issues a transaction (spec/30_encoding.md R70, spec/60_exceptions.md R270): it joins the end of the queue. -/
def State.issue (s : State) (t : Transaction) : State := { s with queue := s.queue ++ [t] }

/-- Error entry (spec/60_exceptions.md R252): the first error is recorded and STATE becomes ERROR; in ERROR nothing changes. -/
def State.enterError (s : State) (code : ErrorCode) (cmd : Word) : State :=
  if s.state = .error then s else { s with errcode := code, errcmd := cmd, state := .error }

/-- A command raises an error: it has no other effect and returns q zero words (spec/60_exceptions.md R252). -/
def State.reject (s : State) (code : ErrorCode) (cmd : Word) (q : Nat) : State :=
  (s.enterError code cmd).complete (zeros q)

/-- The exit from ERROR (spec/60_exceptions.md R254): the reset state of spec/70_reset_and_hazards.md R281. The queue, the
response log, the build-time constants and the free values are no part of what R281 resets (log 16). -/
def State.applyReset (s : State) : State :=
  { State.resetOf s.cfg with
    queue := s.queue, responses := s.responses, draws := s.draws, turn := s.turn,
    patience := s.patience, fails := s.fails }

/-- The CU takes an illegal command word (spec/60_exceptions.md R253, R255, R257): discarded in ERROR, E_ILLEGAL_CMD
otherwise; no response word either way. -/
def State.takeIllegal (s : State) (cmd : Word) : State := s.reject .illegalCmd cmd 0

/-- Q of spec/30_encoding.md R74: the response words of a command. -/
def responseWords (cfg : Config) : Opcode → Nat
  | .nop => 0
  | .hdrUpload => 0
  | .hdrWrite => 0
  | .hdrRead => 1
  | .tgtWrite => 0
  | .tgtUpload => 0
  | .baseWrite => 0
  | .dispatch => 0
  | .readback => cfg.capacity
  | .templateLoad => 0
  | .hdrDecode => 21
  | .hash => 9
  | .statusRead => 1
  | .infoRead => 1
  | .reset => 0

/-- The commands that execute in ERROR (spec/60_exceptions.md R255); every other one is discarded there. -/
def executesInError : Opcode → Bool
  | .nop => true
  | .statusRead => true
  | .infoRead => true
  | .reset => true
  | .hdrUpload => false
  | .hdrWrite => false
  | .hdrRead => false
  | .tgtWrite => false
  | .tgtUpload => false
  | .baseWrite => false
  | .dispatch => false
  | .readback => false
  | .templateLoad => false
  | .hdrDecode => false
  | .hash => false

/-- The commands that raise E_BUSY_HAZARD while STATE = BUSY (spec/60_exceptions.md R256). -/
def refusedWhileBusy : Opcode → Bool
  | .hdrUpload => true
  | .hdrWrite => true
  | .tgtWrite => true
  | .tgtUpload => true
  | .baseWrite => true
  | .templateLoad => true
  | .dispatch => true
  | .nop => false
  | .hdrRead => false
  | .readback => false
  | .hdrDecode => false
  | .hash => false
  | .statusRead => false
  | .infoRead => false
  | .reset => false

/-- Whether a command waits in this state (spec/70_reset_and_hazards.md R290): READBACK and HASH while STATE = BUSY, RESET
while INFLIGHT is true. -/
def holds (op : Opcode) (s : State) : Bool :=
  match op with
  | .readback => decide (s.state = .busy)
  | .hash => decide (s.state = .busy)
  | .reset => s.inflight
  | .nop => false
  | .hdrUpload => false
  | .hdrWrite => false
  | .hdrRead => false
  | .tgtWrite => false
  | .tgtUpload => false
  | .baseWrite => false
  | .dispatch => false
  | .templateLoad => false
  | .hdrDecode => false
  | .statusRead => false
  | .infoRead => false

/-- The checks 1 to 4 of spec/60_exceptions.md R253 in their order, then the command itself: discard in ERROR (R255), a
reserved index (R257), the payload's length (R258), the busy hazard (R256) or the hold (spec/70_reset_and_hazards.md R290).
A held command changes nothing and stays at the head of the queue. -/
def guarded (i : Instr) (s : State) (run : Result) : Result :=
  let q := responseWords s.cfg i.opcode
  if s.state = .error ∧ executesInError i.opcode = false then .next (s.complete (zeros q))
  else if i.indexLegal = false then .next (s.takeIllegal i.word)
  else if i.payload.length ≠ i.opcode.payloadWords then .next (s.reject .payload i.word q)
  else if s.state = .busy ∧ refusedWhileBusy i.opcode = true then .next (s.reject .busyHazard i.word q)
  else if holds i.opcode s = true then .next s
  else run

/-- Whether the environment fails the command now executing (spec/60_exceptions.md R261). -/
def State.deviceFails (s : State) : Bool := s.cfg.deviceFaults && s.fails

/-- New free values after agent a's turn. The command unit's turn with a dispatch in flight is counted against its patience;
any other turn draws the patience anew (spec/70_reset_and_hazards.md R297, log 4). -/
def State.redraw (a : Agent) (s : State) : State :=
  { s with
    draws := s.draws + 1
    turn := Config.turnChoice s.draws
    patience := if a = .commandUnit ∧ s.inflight = true then s.patience - 1 else Config.patience s.draws
    fails := Config.environmentFails s.draws }

end Sys2Proof.Machine
end

