-- ==== Sys2Proof/Machine/Lanes.lean ====
section
/-! DEFINITION. The lanes of a dispatch: how a lane starts, what one of its turns does, and its single write of its slot
(spec/43_search_engine.md R171 to R178); the acceptance, completion and failure of a dispatch (R173, R177, R179). -/

namespace Sys2Proof.Machine

/-- The nonce of lane i (R171): BASE + i modulo 2^32. -/
def laneNonce (base : Word) (i : Nat) : Word := base + BitVec.ofNat 32 i

/-- The block each compression of a lane works on: M[0..15], M[16..31], or the padded digest of pass 1, which is the chaining
state the second compression leaves (spec/41_hash_kernel.md R112 to R114). -/
def compressionBlock (c : Compression) (message : List Word) (chained : HashState) : List Word :=
  match c with
  | .headerFirst => firstBlock message
  | .headerSecond => secondBlock message
  | .digest => padDigest chained

/-- The chaining state a compression starts from: IV for pass 1's first and for pass 2, MID for pass 1's second. -/
def compressionStart (c : Compression) (chained : HashState) : HashState :=
  match c with
  | .headerFirst => initialHash
  | .headerSecond => chained
  | .digest => initialHash

/-- A lane enters a compression: W is the block's schedule, a..h the chaining state (spec/41_hash_kernel.md R111). -/
def enterCompression (l : Lane) (c : Compression) (chained : HashState) : Lane :=
  { l with
    chain := compressionStart c chained
    work := compressionStart c chained
    schedule := schedule (compressionBlock c l.message chained)
    compression := c
    round := 0 }

/-- Lane i as it starts (R173, R174): a private copy of the header words with word 19 the nonce, at the first compression. The
temporaries hold 0 until the first round writes them (DESIGN CHOICE, log 10). -/
def startLane (header : List Word) (base : Word) (i : Nat) : Lane :=
  enterCompression
    { index := i
      nonce := laneNonce base i
      message := withNonce header (laneNonce base i)
      chain := initialHash
      work := initialHash
      t1 := 0
      t2 := 0
      schedule := []
      compression := .headerFirst
      round := 0 }
    .headerFirst initialHash

/-- One round of a lane (spec/41_hash_kernel.md R110), with the temporaries kept. -/
def laneRound (l : Lane) : Lane :=
  { l with
    t1 := roundT1 l.schedule l.round l.work
    t2 := roundT2 l.work
    work := shaRound l.schedule l.round l.work
    round := l.round + 1 }

/-- What one turn of a lane gives: the lane goes on, or it has its digest S[0..7]. -/
inductive LaneTurn where
  | running (l : Lane)
  | finished (digest : HashState)
  deriving DecidableEq, Repr

/-- One turn of a lane: a round while there is one, else the feed-forward and the next compression, or the digest after the
third (spec/41_hash_kernel.md R111, R115). -/
def laneTurn (l : Lane) : LaneTurn :=
  if l.round < 64 then .running (laneRound l)
  else
    match l.compression with
    | .headerFirst => .running (enterCompression l .headerSecond (feedForward l.chain l.work))
    | .headerSecond => .running (enterCompression l .digest (feedForward l.chain l.work))
    | .digest => .finished (feedForward l.chain l.work)

/-- What a lane writes to its slot (R176): its nonce if it passed, else 0. -/
def slotValue (pass : Bool) (n : Word) : Word := if pass then n else 0

/-- The last act of lane l with digest S: the comparison with TGT and the write of OUT[i] (R174, R176). -/
def State.writeSlot (s : State) (l : Lane) (digest : HashState) : Buffer :=
  memWrite s.out l.index
    [slotValue (cmpTarget (view s.cfg.digestOrder digest) (cellWords s.targetCells)) l.nonce]

/-- The turn of the k-th running lane. A lane that has written its slot is discarded (spec/10_state.md R23). -/
def State.turnOfLane (s : State) (k : Nat) : State :=
  match s.lanes[k]? with
  | none => s
  | some l =>
    match laneTurn l with
    | .running l' => { s with lanes := s.lanes.set k l' }
    | .finished digest => { s with lanes := s.lanes.eraseIdx k, out := s.writeSlot l digest }

/-- Acceptance of a dispatch of lc lanes (R173), in one step. `header` is HDR as read, its word 19 irrelevant. -/
def State.acceptDispatch (s : State) (header : List Word) (lc : Word) : State :=
  { s with
    lc := lc
    out := List.replicate s.cfg.capacity (Cell.of 0)
    state := .busy
    inflight := true
    lanes := (List.range lc.toNat).map (startLane header s.base.value) }

/-- The Completion event (R177): it fires once no lane is left; STATE becomes DONE unless an error intervened. -/
def State.turnOfCompletion (s : State) : State :=
  if s.inflight = true ∧ s.lanes = [] then
    { s with inflight := false, state := if s.state = .busy then .done else s.state }
  else s

/-- OUT after a failed dispatch (R179): a free value in every slot (log 11). -/
def failedOut (draw capacity : Nat) : Buffer :=
  (List.range capacity).map (fun j => Cell.of (Config.failedSlot draw j))

/-- The command word of DISPATCH, recorded in ERRCMD when a dispatch fails (R179). -/
def dispatchWord : Word := 0x07000000

/-- Device failure of a dispatch in flight (R179, spec/60_exceptions.md R261): the lanes left never write, OUT becomes
unspecified, E_DEVICE is raised; Completion does not fire. -/
def State.turnOfFailure (s : State) : State :=
  if s.inflight = true ∧ s.cfg.deviceFaults = true then
    State.enterError
      { s with inflight := false, lanes := [], out := failedOut s.draws s.cfg.capacity } .device dispatchWord
  else s

/-- Slot j after Completion, as one function (R178). -/
def dispatchSlot (order : DigestOrder) (header target : List Word) (base : Word) (lc j : Nat) : Word :=
  if j < lc ∧ noncePasses order header target (laneNonce base j) = true ∧ laneNonce base j ≠ 0 then
    laneNonce base j
  else 0

/-- The number of compute groups of a dispatch (R172): ceil(LC / G). -/
def computeGroups (lc g : Nat) : Nat := (lc + g - 1) / g

/-- The invocations of a dispatch in group order (R172): group index · G + position in group. -/
def invocations (lc g : Nat) : List Nat :=
  (List.range (computeGroups lc g)).flatMap (fun group => (List.range g).map (fun pos => group * g + pos))

end Sys2Proof.Machine
end

