-- ==== Sys2Proof/Machine/Agents.lean ====
section
/-! DEFINITION. Which agents can move in a state, which of them moves, and what the command unit's turn does
(spec/00_scope.md R11, spec/10_state.md R21). -/

namespace Sys2Proof.Machine

/-- Whether the head of the queue is held (spec/10_state.md R35, spec/70_reset_and_hazards.md R290): it is a well-formed
command that waits in this state. In ERROR a READBACK or HASH does not wait, since STATE is not BUSY. -/
def State.headHolds (s : State) : Bool :=
  match s.queue with
  | [] => false
  | t :: _ =>
    match decode t.cmd t.payload with
    | .ok i => i.wellFormed && holds i.opcode s
    | .error _ => false

/-- Whether the command unit may move: it has a command that is not held, and it has not used up the turns that weak fairness
lets it take before the dispatch in flight takes one (spec/70_reset_and_hazards.md R297, log 4). -/
def State.commandUnitMoves (s : State) : Bool :=
  decide (s.queue ≠ []) && !s.headHolds && (!s.inflight || decide (s.patience ≠ 0))

/-- The agents that can move (log 4): the command unit when it may; of a dispatch in flight every lane left, Completion when
none is left, and the failure that the environment may cause. -/
def State.enabledAgents (s : State) : List Agent :=
  (if s.commandUnitMoves = true then [Agent.commandUnit] else []) ++
  (if s.inflight = true then
    (List.range s.lanes.length).map Agent.lane ++
    (if s.lanes = [] then [Agent.completion] else []) ++
    (if s.cfg.deviceFaults = true then [Agent.deviceFailure] else [])
  else [])

/-- The agent a free value picks among those that can move; none when the block waits for its host. -/
def pickAgent (turn : Nat) : List Agent → Option Agent
  | [] => none
  | [a] => some a
  | a :: as => some ((a :: as).getD (turn % (a :: as).length) a)

/-- The agent that moves in this state. -/
def State.scheduled (s : State) : Option Agent := pickAgent s.turn s.enabledAgents

/-- The command unit's turn: it takes the head of the queue, answers an illegal word with E_ILLEGAL_CMD and runs a legal one
by `run` (spec/30_encoding.md R77, spec/60_exceptions.md R251). -/
def commandUnitTurn (run : Instr → State → Result) (s : State) : Result :=
  match s.queue with
  | [] => .next s
  | t :: _ =>
    match decode t.cmd t.payload with
    | .ok i => run i s
    | .error _ => .next (s.takeIllegal t.cmd)

/-- The turn of an agent. -/
def agentTurn (run : Instr → State → Result) (a : Agent) (s : State) : Result :=
  match a with
  | .commandUnit => commandUnitTurn run s
  | .lane k => .next (s.turnOfLane k)
  | .completion => .next s.turnOfCompletion
  | .deviceFailure => .next s.turnOfFailure

end Sys2Proof.Machine
end

