-- ==== Sys2Proof/Machine/Control.lean ====
section
/-! DEFINITION. The control and status commands (spec/45_control.md R230 to R235). -/

namespace Sys2Proof.Machine

/-- NOP (R230). -/
def execNop (payload : List Word) (s : State) : Result :=
  guarded (.nop payload) s (.next (s.complete []))

/-- STATUS_READ (R231). -/
def execStatusRead (payload : List Word) (s : State) : Result :=
  guarded (.statusRead payload) s (.next (s.complete [s.statusWord]))

/-- INFO(k) of R233 as a cell: the build-time constants and the device's own registers are always written; BASE and the
target words carry their marks. Index 7 names nothing and is refused before it is read. -/
def infoCell (s : State) (k : BitVec 4) : Cell :=
  match k.toNat with
  | 0 => Cell.of s.cfg.idWord
  | 1 => Cell.of (BitVec.ofNat 32 s.cfg.capacity)
  | 2 => Cell.of (BitVec.ofNat 32 s.cfg.laneGroup)
  | 3 => Cell.of (digestOrderWord s.cfg.digestOrder)
  | 4 => Cell.of s.errcmd
  | 5 => Cell.of s.lc
  | 6 => s.base
  | 7 => Cell.unwritten
  | k => cellAt s.tgt (k - 8)

/-- INFO_READ (R232). -/
def execInfoRead (idx : BitVec 4) (payload : List Word) (s : State) : Result :=
  guarded (.infoRead idx payload) s (readWords [infoCell s idx] fun w => .next (s.complete w))

/-- RESET (R235): after the hold, the reset state. -/
def execReset (payload : List Word) (s : State) : Result :=
  guarded (.reset payload) s (.next (s.applyReset.complete []))

end Sys2Proof.Machine
end

