-- ==== Sys2Proof/Machine/HeaderCodec.lean ====
section
/-! DEFINITION. The header codec (spec/44_header_codec.md): templates, the 80-byte serialization, ENCODE and DECODE, the bus
form, and the commands TEMPLATE_LOAD, HDR_DECODE and HDR_READ. -/

namespace Sys2Proof.Machine

/-- A block template: all header fields except the nonce (R200). -/
structure BlockTemplate where
  version : Word
  /-- 32 bytes in the order in which they are serialized. -/
  prevBlockHash : List Byte
  /-- 32 bytes in the order in which they are serialized. -/
  merkleRoot : List Byte
  time : Word
  bits : Word
  deriving DecidableEq, Repr

/-- Both hash fields have 32 bytes (R200). -/
def BlockTemplate.wf (t : BlockTemplate) : Bool :=
  decide (t.prevBlockHash.length = 32) && decide (t.merkleRoot.length = 32)

/-- What DECODE returns (R205). -/
structure DecodedHeader where
  template : BlockTemplate
  nonce : Word
  valid : Bool
  deriving DecidableEq, Repr

/-- PAD[20..31], the SHA-256 padding of the 80-byte header (R201). -/
def headerPad : List Word := [0x80000000] ++ List.replicate 10 0 ++ [0x00000280]

/-- The padding as the 48 bytes 80..127 of the padded message (R201). -/
def headerPadBytes : List Byte := [0x80] ++ List.replicate 39 0 ++ [0, 0, 0, 0, 0, 0, 0x02, 0x80]

/-- SER (R202): the 80 header bytes. -/
def serialize (t : BlockTemplate) (nonce : Word) : List Byte :=
  le32 t.version ++ t.prevBlockHash ++ t.merkleRoot ++ le32 t.time ++ le32 t.bits ++ be32 nonce

/-- ENCODE (R203): the 32 header words. -/
def encodeHeader (t : BlockTemplate) (nonce : Word) : List Word :=
  [bswap32 t.version] ++ packBE t.prevBlockHash ++ packBE t.merkleRoot ++
    [bswap32 t.time, bswap32 t.bits, nonce] ++ headerPad

/-- Well-formed header words (R206): 32 words whose words 20..31 are the padding. -/
def headerWellFormed (w : List Word) : Bool := decide (slice w 20 12 = headerPad)

/-- DECODE (R205). -/
def decodeHeader (w : List Word) : DecodedHeader where
  template :=
    { version := bswap32 (w.getD 0 0)
      prevBlockHash := unpackBE (slice w 1 8)
      merkleRoot := unpackBE (slice w 9 8)
      time := bswap32 (w.getD 17 0)
      bits := bswap32 (w.getD 18 0) }
  nonce := w.getD 19 0
  valid := headerWellFormed w

/-- The bus form of a template (R208): 19 words. -/
def busForm (t : BlockTemplate) : List Word :=
  [t.version] ++ packBE t.prevBlockHash ++ packBE t.merkleRoot ++ [t.time, t.bits]

/-- The template whose bus form is the first 19 payload words (R208). -/
def templateOfBus (p : List Word) : BlockTemplate where
  version := payloadWord p 0
  prevBlockHash := unpackBE (slice p 1 8)
  merkleRoot := unpackBE (slice p 9 8)
  time := payloadWord p 17
  bits := payloadWord p 18

/-- The nonce as Bitcoin-style software reads it from the header (R204). -/
def wireNonce (n : Word) : Word := bswap32 n

/-- TEMPLATE_LOAD (R210): HDR <- ENCODE(t, N), one indivisible write. -/
def execTemplateLoad (payload : List Word) (s : State) : Result :=
  guarded (.templateLoad payload) s
    (.next (State.complete
      { s with hdr := memWrite s.hdr 0 (encodeHeader (templateOfBus payload) (payloadWord payload 19)) } []))

/-- The response of HDR_DECODE (R211): valid, the bus form, N. -/
def decodeResponse (d : DecodedHeader) : List Word :=
  [if d.valid then 1 else 0] ++ busForm d.template ++ [d.nonce]

/-- HDR_DECODE (R211). -/
def execHdrDecode (payload : List Word) (s : State) : Result :=
  guarded (.hdrDecode payload) s
    (readWords (memRead s.hdr 0 32) fun w => .next (s.complete (decodeResponse (decodeHeader w))))

/-- HDR_READ (R212). -/
def execHdrRead (idx : BitVec 5) (payload : List Word) (s : State) : Result :=
  guarded (.hdrRead idx payload) s
    (readWords (memRead s.hdr idx.toNat 1) fun w => .next (s.complete w))

end Sys2Proof.Machine
end

