-- ==== Sys2Proof/Machine/SearchEngine.lean ====
section
/-! DEFINITION. The commands of the nonce search engine (spec/43_search_engine.md R160 to R180) and HASH
(spec/41_hash_kernel.md R120). -/

namespace Sys2Proof.Machine

/-- HDR_UPLOAD (R160): all 32 header words in one step. -/
def execHdrUpload (payload : List Word) (s : State) : Result :=
  guarded (.hdrUpload payload) s (.next (State.complete { s with hdr := memWrite s.hdr 0 payload } []))

/-- HDR_WRITE (R161). -/
def execHdrWrite (idx : BitVec 5) (payload : List Word) (s : State) : Result :=
  guarded (.hdrWrite idx payload) s
    (.next (State.complete { s with hdr := memWrite s.hdr idx.toNat [payloadWord payload 0] } []))

/-- TGT_WRITE (R162). -/
def execTgtWrite (idx : BitVec 3) (payload : List Word) (s : State) : Result :=
  guarded (.tgtWrite idx payload) s
    (.next (State.complete { s with tgt := memWrite s.tgt idx.toNat [payloadWord payload 0] } []))

/-- TGT_UPLOAD (R163): all eight target words in one step. -/
def execTgtUpload (payload : List Word) (s : State) : Result :=
  guarded (.tgtUpload payload) s (.next (State.complete { s with tgt := memWrite s.tgt 0 payload } []))

/-- BASE_WRITE (R164). -/
def execBaseWrite (payload : List Word) (s : State) : Result :=
  guarded (.baseWrite payload) s (.next (State.complete { s with base := Cell.of (payloadWord payload 0) } []))

/-- DISPATCH (R170, R173): E_LANES_OVER_CAP for more lanes than slots, else the inputs are read and the dispatch accepted. -/
def execDispatch (payload : List Word) (s : State) : Result :=
  guarded (.dispatch payload) s
    (if s.cfg.capacity < (payloadWord payload 0).toNat then
      .next (s.reject .lanesOverCap (Instr.word (.dispatch payload)) 0)
    else
      readWords (s.messageCells 0) fun header =>
      readWords s.targetCells fun _ =>
      readWords [s.base] fun _ =>
      .next ((s.acceptDispatch header (payloadWord payload 0)).complete []))

/-- READBACK (R180): after the hold, E_DEVICE if the environment fails it, else the CAP slots of OUT. -/
def execReadback (payload : List Word) (s : State) : Result :=
  guarded (.readback payload) s
    (if s.deviceFails then .next (s.reject .device (Instr.word (.readback payload)) s.cfg.capacity)
    else readWords (memRead s.out 0 s.cfg.capacity) fun w => .next (s.complete w))

/-- The response of HASH (spec/41_hash_kernel.md R121): S[0..7] in state order, then the pass word. -/
def hashResponse (order : DigestOrder) (message target : List Word) : List Word :=
  hashWords (dsha256 message) ++ [if cmpTarget (view order (dsha256 message)) target then 1 else 0]

/-- HASH (spec/41_hash_kernel.md R120): after the hold the inputs are read, then E_DEVICE if the environment fails the
evaluation, else the digest and the pass word. -/
def execHash (payload : List Word) (s : State) : Result :=
  guarded (.hash payload) s
    (readWords (s.messageCells (payloadWord payload 0)) fun message =>
      readWords s.targetCells fun target =>
      if s.deviceFails then .next (s.reject .device (Instr.word (.hash payload)) 9)
      else .next (s.complete (hashResponse s.cfg.digestOrder message target)))

end Sys2Proof.Machine
end

