-- ==== Sys2Proof/Machine/Dispatch.lean ====
section
/-! DEFINITION. exec: one arm per constructor of Instr, each one call of that instruction's meaning. -/

namespace Sys2Proof.Machine

def exec (i : Instr) (s : State) : Host.Outcome State Fault Refusal :=
  match i with
  | .nop p => Sys2Proof.Machine.execNop p s
  | .hdrUpload p => Sys2Proof.Machine.execHdrUpload p s
  | .hdrWrite w p => Sys2Proof.Machine.execHdrWrite w p s
  | .hdrRead w p => Sys2Proof.Machine.execHdrRead w p s
  | .tgtWrite k p => Sys2Proof.Machine.execTgtWrite k p s
  | .tgtUpload p => Sys2Proof.Machine.execTgtUpload p s
  | .baseWrite p => Sys2Proof.Machine.execBaseWrite p s
  | .dispatch p => Sys2Proof.Machine.execDispatch p s
  | .readback p => Sys2Proof.Machine.execReadback p s
  | .templateLoad p => Sys2Proof.Machine.execTemplateLoad p s
  | .hdrDecode p => Sys2Proof.Machine.execHdrDecode p s
  | .hash p => Sys2Proof.Machine.execHash p s
  | .statusRead p => Sys2Proof.Machine.execStatusRead p s
  | .infoRead k p => Sys2Proof.Machine.execInfoRead k p s
  | .reset p => Sys2Proof.Machine.execReset p s

end Sys2Proof.Machine
end

