-- ==== Sys2Proof/Machine/Step.lean ====
section
/-! DEFINITION. One step of the machine: the turn of the agent that the free value picks, after which new free values are
drawn; a block that waits for its host stays as it is. -/

namespace Sys2Proof.Machine

/-- One step. -/
def step (s : State) : Host.Outcome State Fault Refusal :=
  match s.scheduled with
  | none => .next s
  | some a => mapNext (State.redraw a) (agentTurn exec a s)

/-- `s` with a transaction at the head of the queue, where the command unit takes its next command (log 6): a command word of
bits `w` and the payload of zeros its opcode asks for. -/
def State.withFetchWord (s : State) (nbits w : Nat) : State :=
  { s with queue := tableTransaction nbits w :: s.queue }

end Sys2Proof.Machine
end

