-- ==== Sys2Proof/Machine/Collector.lean ====
section
/-! DEFINITION. The host's side of a search (spec/43_search_engine.md R181 to R186) and the pseudo-commands
(spec/30_encoding.md R79): functions of the words a READBACK returns and lists of transactions. No step of the machine
calls them. -/

namespace Sys2Proof.Machine

/-- COLLECT (R181): the first non-zero slot among slots 0..LC−1. -/
def collect (slots : List Word) (lc : Nat) : Option Word := (slots.take lc).find? (fun w => decide (w ≠ 0))

/-- The result of one search call (R182, R186). -/
inductive SearchResult where
  /-- "No solution in range", a normal negative result (spec/60_exceptions.md R251). -/
  | noSolution
  /-- A re-verified nonce and the header words that carry it. -/
  | solution (nonce : Word) (header : List Word)
  /-- The host's re-verification failed (R182, spec/60_exceptions.md R262). -/
  | validationError (nonce : Word)
  /-- A device error, which the host treats as fatal; its code is STATUS.ERRCODE (R186, spec/60_exceptions.md R250). -/
  | deviceError (code : BitVec 8)
  deriving DecidableEq, Repr

/-- COLLECT and the host's re-verification (R182): `header` is HDR, the words that were searched, and the Solution's header is
the encoding of template `t` with the nonce. -/
def concludeSearch (order : DigestOrder) (t : BlockTemplate) (header target slots : List Word) (lc : Nat) : SearchResult :=
  match collect slots lc with
  | none => .noSolution
  | some n =>
    if noncePasses order header target n then .solution n (encodeHeader t n) else .validationError n

/-- The base of the next range of one search (R184). -/
def nextBase (base lc : Word) : Word := base + lc

/-- SET_TARGET (spec/30_encoding.md R79). -/
def setTarget (target : List Word) : List Transaction := [encode (.tgtUpload target)]

/-- SET_NONCE (spec/30_encoding.md R79). -/
def setNonce (n : Word) : List Transaction := [encode (.hdrWrite 19 [n])]

/-- WAIT polls STATUS_READ until this holds of the word it returns (spec/30_encoding.md R79). -/
def waitOver (status : Word) : Bool := decide (status.extractLsb' 0 2 ≠ 1)

/-- VERIFY (spec/30_encoding.md R79): HASH n. -/
def verify (n : Word) : List Transaction := [encode (.hash [n])]

/-- The host treats the last of the words HASH returns as the verdict of VERIFY (spec/30_encoding.md R79). -/
def verified (response : List Word) : Bool := decide (response.getD 8 0 = 1)

/-- SEARCH (spec/30_encoding.md R79, R186), without the host's COLLECT. -/
def search (base lc : Word) : List Transaction :=
  [encode (.baseWrite [base]), encode (.dispatch [lc]), encode (.readback [])]

/-- The device error that a STATUS word reports: its ERRCODE when its STATE is ERROR (spec/10_state.md R29, R31). -/
def statusError (status : Word) : Option (BitVec 8) :=
  if status.extractLsb' 0 2 = 3 then some (status.extractLsb' 8 8) else none

/-- The transactions of one search call (R186): the header loaded by `load` (HDR_UPLOAD or TEMPLATE_LOAD), the target, SEARCH,
and the STATUS_READ by which the host sees a device error (spec/60_exceptions.md R252). -/
def searchCall (load : Transaction) (target : List Word) (base lc : Word) : List Transaction :=
  [load] ++ setTarget target ++ search base lc ++ [encode (.statusRead [])]

/-- The result of one search call (R186), from the responses to its six transactions: the device error that STATUS reports,
else COLLECT and re-verification of the slots READBACK returned; none while responses are missing. -/
def searchCallResult (order : DigestOrder) (t : BlockTemplate) (header target : List Word) (lc : Nat) :
    List (List Word) → Option SearchResult
  | [_, _, _, _, slots, [status]] =>
    match statusError status with
    | some code => some (.deviceError code)
    | none => some (concludeSearch order t header target slots lc)
  | _ => none

/-- The transactions of SCAN (spec/30_encoding.md R79): k searches, each base advanced by lc. The host stops at the first
that collects a nonce. -/
def scan (base lc : Word) : Nat → List Transaction
  | 0 => []
  | k + 1 => search base lc ++ scan (nextBase base lc) lc k

end Sys2Proof.Machine
end

