-- ==== Sys2Proof/Safety.lean ====
section
/-! DEFINITION. What counts as a legal state and a sound dispatch, in the terms the statements use: the buffers' canonical
form, the structural invariant, the invariant of a dispatch in flight, the ways a command is turned away, and the work a
dispatch has left. -/

namespace Sys2Proof.Machine

/-- The canonical form of the buffers (spec/20_memory.md R50): HDR has 32 words, TGT 8 and OUT exactly CAP. -/
def Memory.wf (s : State) : Bool :=
  decide (s.hdr.length = 32) && decide (s.tgt.length = 8) && decide (s.out.length = s.cfg.capacity)

/-- HDR as words, whatever their marks. -/
def State.headerWords (s : State) : List Word := cellWords (memRead s.hdr 0 32)

/-- TGT as words, whatever their marks. -/
def State.targetWords (s : State) : List Word := cellWords s.targetCells

/-- Every word that DISPATCH reads is written: HDR[0..18], HDR[20..31], TGT and BASE (spec/43_search_engine.md R170). -/
def State.inputsWritten (s : State) : Bool :=
  allWritten (s.messageCells 0) && allWritten s.targetCells && s.base.written

/-- The structural invariant: what spec/10_state.md says is true of the registers in every state a run reaches. -/
structure Legal (s : State) : Prop where
  /-- spec/00_scope.md R6. -/
  config : s.cfg.wf = true
  /-- spec/20_memory.md R50. -/
  buffers : Memory.wf s = true
  /-- spec/10_state.md R27: 0 ≤ LC ≤ CAP. -/
  lanesWithinCapacity : s.lc.toNat ≤ s.cfg.capacity
  /-- spec/10_state.md R35: "STATE = BUSY implies INFLIGHT". -/
  busyInflight : s.state = .busy → s.inflight = true
  /-- spec/10_state.md R35: INFLIGHT is true only in BUSY, or in ERROR when an error was raised during the dispatch. -/
  inflightBusyOrError : s.inflight = true → s.state = .busy ∨ s.state = .error
  /-- spec/10_state.md R29: ERRCODE is 0x00 unless STATE = ERROR, and in ERROR it is one of R250's codes. -/
  errcode : s.errcode = .none ↔ s.state ≠ .error
  /-- spec/10_state.md R32: ERRCMD is 0x00000000 while STATE ≠ ERROR. -/
  errcmd : s.state ≠ .error → s.errcmd = 0
  /-- spec/10_state.md R23: a lane exists only in a dispatch in flight. -/
  lanesInflight : s.lanes ≠ [] → s.inflight = true
  /-- spec/10_state.md R22: 0 ≤ i < LC. -/
  laneIndexes : ∀ l ∈ s.lanes, l.index < s.lc.toNat
  /-- spec/60_exceptions.md R267: the lanes have distinct indices. -/
  laneDistinct : (s.lanes.map Lane.index).Pairwise (· < ·)
  /-- The inputs of a dispatch in flight are written (spec/43_search_engine.md R170). -/
  inputs : s.inflight = true → s.inputsWritten = true
  /-- OUT is written from an accepted dispatch on (spec/10_state.md R30). -/
  outWritten : s.state = .busy ∨ s.state = .done ∨ s.inflight = true → allWritten s.out = true

/-- What the compression before has left for compression c of a message: nothing for the first, MID for the second, D1 for the
third (spec/41_hash_kernel.md R112 to R114). -/
def chainedBefore (c : Compression) (message : List Word) : HashState :=
  match c with
  | .headerFirst => initialHash
  | .headerSecond => midstate message
  | .digest => pass1 message

/-- A lane is where its fixed computation puts it (spec/10_state.md R21, R22; spec/43_search_engine.md R174). -/
structure LaneOnTrack (s : State) (l : Lane) : Prop where
  nonce : l.nonce = laneNonce s.base.value l.index
  message : l.message = withNonce s.headerWords l.nonce
  round : l.round ≤ 64
  chain : l.chain = compressionStart l.compression (chainedBefore l.compression l.message)
  schedule : l.schedule =
    schedule (compressionBlock l.compression l.message (chainedBefore l.compression l.message))
  work : l.work = shaRounds l.schedule l.round l.chain

/-- Slot j of the dispatch whose inputs HDR, TGT, BASE and LC hold now (spec/43_search_engine.md R178). -/
def State.resultSlot (s : State) (j : Nat) : Word :=
  dispatchSlot s.cfg.digestOrder s.headerWords s.targetWords s.base.value s.lc.toNat j

/-- The invariant of a dispatch in flight: every lane left is on its way, every slot whose lane is done holds that lane's
result, every other slot the 0 that acceptance wrote (spec/43_search_engine.md R173 to R178). -/
structure DispatchSound (s : State) : Prop where
  lanes : s.inflight = true → ∀ l ∈ s.lanes, LaneOnTrack s l
  slots : s.inflight = true → ∀ j < s.cfg.capacity,
    s.out[j]? = some (Cell.of (if j ∈ s.lanes.map Lane.index then 0 else s.resultSlot j))

/-- STATE is IDLE or DONE: no dispatch is in flight and no error stands. -/
def State.ready (s : State) : Prop := s.state = .idle ∨ s.state = .done

/-- The state after a command that only returns response words. -/
def State.answered (s : State) (response : List Word) : State :=
  { s with queue := s.queue.tail, responses := s.responses ++ [response] }

/-- The state after an error outside ERROR (spec/60_exceptions.md R252): ERRCODE, ERRCMD and STATE, and q zero words. -/
def State.erred (s : State) (code : ErrorCode) (cmd : Word) (q : Nat) : State :=
  { s with
    state := .error, errcode := code, errcmd := cmd,
    queue := s.queue.tail, responses := s.responses ++ [List.replicate q 0] }

/-- In ERROR the command is discarded: no change but q zero words (spec/60_exceptions.md R255). -/
def DiscardedInError (i : Instr) (q : Nat) (s : State) : Prop :=
  s.state = .error → exec i s = .next (s.answered (List.replicate q 0))

/-- Outside ERROR a payload whose length is not p raises E_PAYLOAD (spec/60_exceptions.md R258). -/
def PayloadChecked (i : Instr) (cmd : Word) (p q : Nat) (s : State) : Prop :=
  s.state ≠ .error → i.payload.length ≠ p → exec i s = .next (s.erred .payload cmd q)

/-- While STATE = BUSY the command raises E_BUSY_HAZARD (spec/60_exceptions.md R256). -/
def RefusedWhileBusy (i : Instr) (cmd : Word) (p q : Nat) (s : State) : Prop :=
  s.state = .busy → i.payload.length = p → exec i s = .next (s.erred .busyHazard cmd q)

/-- While STATE = BUSY the command waits: the step leaves it where it is and changes nothing
(spec/70_reset_and_hazards.md R290). -/
def HeldWhileBusy (i : Instr) (p : Nat) (s : State) : Prop :=
  s.state = .busy → i.payload.length = p → exec i s = .next s

/-- The four ways a command that writes HDR, TGT or BASE, or DISPATCH, is turned away. -/
def WriterGuards (i : Instr) (cmd : Word) (p : Nat) (s : State) : Prop :=
  DiscardedInError i 0 s ∧ PayloadChecked i cmd p 0 s ∧ RefusedWhileBusy i cmd p 0 s

/-- A word that the decoder refuses with any payload (spec/30_encoding.md R76). -/
def IllegalWord (cmd : Word) : Prop := ∀ payload, ∃ e, decode cmd payload = .error e

/-- An instruction's effect on the error registers: none, or the entry of an error that names its word
(spec/60_exceptions.md R252). -/
def ErrorRegistersKept (i : Instr) (s t : State) : Prop :=
  (t.state = s.state ∧ t.errcode = s.errcode ∧ t.errcmd = s.errcmd) ∨
  (s.state ≠ .error ∧ t.state = .error ∧ t.errcode ≠ .none ∧ t.errcmd = i.word)

/-- What no command but DISPATCH and RESET, and no error, changes: the constants, LC, OUT, the dispatch in flight and the free
values (spec/10_state.md R20). -/
def DispatchKept (s t : State) : Prop :=
  t.cfg = s.cfg ∧ t.lc = s.lc ∧ t.out = s.out ∧ t.inflight = s.inflight ∧ t.lanes = s.lanes ∧
  t.draws = s.draws ∧ t.turn = s.turn ∧ t.patience = s.patience ∧ t.fails = s.fails

/-- How many turns a lane has left, its last one included. -/
def laneWork (l : Lane) : Nat :=
  (match l.compression with
    | .headerFirst => 130
    | .headerSecond => 65
    | .digest => 0) + (65 - min l.round 64)

/-- How many turns a dispatch in flight has left at most, Completion included; 0 when none is in flight. -/
def State.remainingWork (s : State) : Nat :=
  if s.inflight = true then 1 + (s.lanes.map laneWork).sum else 0

/-- A run of the block with its host: before each step the host issues any transactions (spec/00_scope.md R11,
spec/60_exceptions.md R270). -/
def HostRun (run : Nat → State) (issued : Nat → List Transaction) : Prop :=
  ∀ n, step ((issued n).foldl State.issue (run n)) = .next (run (n + 1))

/-- A lane run on its own for at most n turns: its digest, if it comes to it. -/
def runLane : Nat → Lane → Option HashState
  | 0, _ => none
  | n + 1, l =>
    match laneTurn l with
    | .running l' => runLane n l'
    | .finished digest => some digest

end Sys2Proof.Machine
end

