-- ==== Sys2Proof/Certificates/Slice0/Obligations.lean ====
section
/-! DEFINITION. The statements about the model that the provers settle. Each docstring names the rule of spec/ it formalises. -/

open Sys2Proof Sys2Proof.Machine

/-! ### Encoding -/

/-- R75, R77: the decoder reads back every well-formed instruction that the encoder wrote, with every operand. -/
def Obligations.DecodeOfEncode : Prop :=
  ∀ i : Instr, i.wellFormed = true → decode (encode i).cmd (encode i).payload = .ok i

/-- R76: a word the decoder accepts is exactly the command word of the instruction it gives. -/
def Obligations.EncodeOfDecode : Prop :=
  ∀ (cmd : Word) (p : List Word) (i : Instr), decode cmd p = .ok i →
    encode i = ⟨cmd, p⟩ ∧ i.indexLegal = true

/-- R76: exactly which command words are illegal. -/
def Obligations.IllegalWordsAreThoseOfR76 : Prop :=
  ∀ (cmd : Word), IllegalWord cmd ↔
    (0x0F ≤ (opField cmd).toNat ∨ rsvField cmd ≠ 0 ∨
     ((opField cmd).toNat ∈ [0x02, 0x03] ∧ 32 ≤ (idxField cmd).toNat) ∨
     ((opField cmd).toNat = 0x04 ∧ 8 ≤ (idxField cmd).toNat) ∨
     ((opField cmd).toNat = 0x0D ∧ (16 ≤ (idxField cmd).toNat ∨ (idxField cmd).toNat = 7)) ∨
     ((opField cmd).toNat ∉ [0x02, 0x03, 0x04, 0x0D] ∧ (idxField cmd).toNat ≠ 0))

/-- R75: some command words of the table, written out. -/
def Obligations.DecodedWordsOfTheTable : Prop :=
  decode 0x00000000 [] = .ok (.nop []) ∧
  decode 0x0200001F [5] = .ok (.hdrWrite 31 [5]) ∧
  decode 0x03000013 [] = .ok (.hdrRead 19 []) ∧
  decode 0x04000007 [1] = .ok (.tgtWrite 7 [1]) ∧
  decode 0x0B000000 [0x1DAC2B7C] = .ok (.hash [0x1DAC2B7C]) ∧
  decode 0x0D00000F [] = .ok (.infoRead 15 []) ∧
  decode 0x0D000007 [] = .error .infoIndexReserved ∧
  decode 0x0F000000 [] = .error .reservedOpcode

/-! ### Reset and status -/

/-- R281: the reset state of a block of any build. -/
def Obligations.ResetLeavesTheResetState : Prop :=
  State.reset = State.resetOf Config.build ∧ ∀ cfg : Config,
    (State.resetOf cfg).state = .idle ∧ (State.resetOf cfg).errcode = .none ∧ (State.resetOf cfg).errcmd = 0 ∧
    (State.resetOf cfg).lc = 0 ∧ (State.resetOf cfg).inflight = false ∧
    (State.resetOf cfg).hdr.length = 32 ∧ (∀ c ∈ (State.resetOf cfg).hdr, c.written = false) ∧
    (State.resetOf cfg).tgt.length = 8 ∧ (∀ c ∈ (State.resetOf cfg).tgt, c.written = false) ∧
    (State.resetOf cfg).base.written = false ∧
    (State.resetOf cfg).out.length = cfg.capacity ∧ (∀ c ∈ (State.resetOf cfg).out, c.written = false) ∧
    (State.resetOf cfg).cfg = cfg

/-- R29, R31: the fields of the STATUS word and their places. -/
def Obligations.StatusWordLayout : Prop :=
  ∀ s : State,
    s.statusWord.toNat % 4 = (match s.state with | .idle => 0 | .busy => 1 | .done => 2 | .error => 3) ∧
    s.statusWord.toNat / 4 % 64 = 0 ∧
    s.statusWord.toNat / 256 % 256 = (match s.errcode with
      | .none => 0 | .illegalCmd => 1 | .busyHazard => 2 | .lanesOverCap => 3 | .device => 4 | .payload => 5) ∧
    s.statusWord.toNat / 65536 = 0

/-- R230: NOP has no effect in every STATE; a word with OP 0x00 and any other bit set is illegal. -/
def Obligations.NopHasNoEffect : Prop :=
  decode 0x00000000 [] = .ok (.nop []) ∧ (∀ s : State, exec (.nop []) s = .next (s.answered [])) ∧
  (∀ cmd : Word, opField cmd = 0x00 → cmd ≠ 0 → IllegalWord cmd)

/-- R231: STATUS_READ returns ERRCODE · 2^8 + STATE in every STATE. -/
def Obligations.StatusReadReturnsStatus : Prop :=
  decode 0x0C000000 [] = .ok (.statusRead []) ∧
  (∀ s : State, exec (.statusRead []) s =
    .next (s.answered [s.errcode.bits.setWidth 32 <<< 8 ||| s.state.bits.setWidth 32])) ∧
  (∀ cmd : Word, opField cmd = 0x0C → cmd ≠ 0x0C000000 → IllegalWord cmd)

/-- R232, R233: INFO_READ k returns INFO(k) in every STATE; BASE and the target words must have been written, else the model
fault of R30. -/
def Obligations.InfoReadReturnsInfo : Prop :=
  (∀ s : State,
    exec (.infoRead 0 []) s = .next (s.answered [s.cfg.idWord]) ∧
    exec (.infoRead 1 []) s = .next (s.answered [BitVec.ofNat 32 s.cfg.capacity]) ∧
    exec (.infoRead 2 []) s = .next (s.answered [BitVec.ofNat 32 s.cfg.laneGroup]) ∧
    exec (.infoRead 3 []) s = .next (s.answered [if s.cfg.digestOrder = .btc then 0 else 1]) ∧
    exec (.infoRead 4 []) s = .next (s.answered [s.errcmd]) ∧
    exec (.infoRead 5 []) s = .next (s.answered [s.lc]) ∧
    (s.base.written = true → exec (.infoRead 6 []) s = .next (s.answered [s.base.value])) ∧
    (s.base.written = false → exec (.infoRead 6 []) s = .fault .modelUnwrittenRead) ∧
    (∀ (k : BitVec 4) (c : Cell), 8 ≤ k.toNat → s.tgt[k.toNat - 8]? = some c →
      exec (.infoRead k []) s =
        if c.written = true then .next (s.answered [c.value]) else .fault .modelUnwrittenRead)) ∧
  (∀ cmd : Word, opField cmd = 0x0D → 16 ≤ (idxField cmd).toNat ∨ (idxField cmd).toNat = 7 → IllegalWord cmd)

/-- R235, R282: RESET gives the reset state once nothing is in flight, in every STATE, and waits until then. What it does to
the queue, the response log and the free values is the model's (log 16). -/
def Obligations.ResetCommandRestoresResetState : Prop :=
  (∀ s : State,
    (s.inflight = false →
      exec (.reset []) s = .next
        { State.resetOf s.cfg with
          queue := s.queue.tail, responses := s.responses ++ [[]],
          draws := s.draws, turn := s.turn, patience := s.patience, fails := s.fails }) ∧
    (s.inflight = true → exec (.reset []) s = .next s)) ∧
  (∀ cmd : Word, opField cmd = 0x0E → cmd ≠ 0x0E000000 → IllegalWord cmd)

/-! ### Loading the inputs -/

/-- R160: HDR_UPLOAD. -/
def Obligations.HdrUploadWritesAllWords : Prop :=
  ∀ (p : List Word) (s : State), s.hdr.length = 32 →
    (s.ready → p.length = 32 →
      exec (.hdrUpload p) s = .next (State.answered { s with hdr := p.map Cell.of } [])) ∧
    WriterGuards (.hdrUpload p) 0x01000000 32 s

/-- R161: HDR_WRITE, for every header word; IDX[7:5] ≠ 0 makes the word illegal. -/
def Obligations.HdrWriteWritesOneWord : Prop :=
  (∀ (w : BitVec 5) (p : List Word) (s : State),
    (∀ v : Word, p = [v] → s.ready →
      exec (.hdrWrite w p) s = .next (State.answered { s with hdr := s.hdr.set w.toNat ⟨v, true⟩ } [])) ∧
    WriterGuards (.hdrWrite w p) (0x02000000 ||| w.setWidth 32) 1 s) ∧
  (∀ cmd : Word, opField cmd = 0x02 → 32 ≤ (idxField cmd).toNat → IllegalWord cmd)

/-- R162: TGT_WRITE, for every target word; IDX[7:3] ≠ 0 makes the word illegal. -/
def Obligations.TgtWriteWritesOneWord : Prop :=
  (∀ (k : BitVec 3) (p : List Word) (s : State),
    (∀ v : Word, p = [v] → s.ready →
      exec (.tgtWrite k p) s = .next (State.answered { s with tgt := s.tgt.set k.toNat ⟨v, true⟩ } [])) ∧
    WriterGuards (.tgtWrite k p) (0x04000000 ||| k.setWidth 32) 1 s) ∧
  (∀ cmd : Word, opField cmd = 0x04 → 8 ≤ (idxField cmd).toNat → IllegalWord cmd)

/-- R163: TGT_UPLOAD. -/
def Obligations.TgtUploadWritesAllWords : Prop :=
  ∀ (p : List Word) (s : State), s.tgt.length = 8 →
    (s.ready → p.length = 8 →
      exec (.tgtUpload p) s = .next (State.answered { s with tgt := p.map Cell.of } [])) ∧
    WriterGuards (.tgtUpload p) 0x05000000 8 s

/-- R164: BASE_WRITE. -/
def Obligations.BaseWriteSetsBase : Prop :=
  ∀ (p : List Word) (s : State),
    (∀ v : Word, p = [v] → s.ready →
      exec (.baseWrite p) s = .next (State.answered { s with base := ⟨v, true⟩ } [])) ∧
    WriterGuards (.baseWrite p) 0x06000000 1 s

/-- R210: TEMPLATE_LOAD writes the encoding of the template whose bus form and nonce it carries. -/
def Obligations.TemplateLoadWritesEncodedHeader : Prop :=
  (∀ (t : BlockTemplate) (n : Word) (s : State), t.wf = true → s.hdr.length = 32 → s.ready →
    exec (.templateLoad (busForm t ++ [n])) s =
      .next (State.answered { s with hdr := (encodeHeader t n).map Cell.of } [])) ∧
  (∀ (p : List Word) (s : State), WriterGuards (.templateLoad p) 0x09000000 20 s)

/-! ### Dispatch and readback -/

/-- R170, R173: an accepted DISPATCH clears OUT, sets LC and BUSY, and starts lanes 0 to LC − 1, for every lane count up to CAP,
0 included. -/
def Obligations.DispatchIsAccepted : Prop :=
  ∀ (lc : Word) (s : State), s.ready → lc.toNat ≤ s.cfg.capacity → s.inputsWritten = true →
    exec (.dispatch [lc]) s = .next (State.answered
      { s with
        lc := lc
        out := List.replicate s.cfg.capacity ⟨0, true⟩
        state := .busy
        inflight := true
        lanes := (List.range lc.toNat).map (startLane (cellWords (s.messageCells 0)) s.base.value) } [])

/-- R170, R253, R255, R256, R258, R259: how a DISPATCH is turned away: discarded in ERROR, E_PAYLOAD, E_BUSY_HAZARD, and for
more lanes than slots E_LANES_OVER_CAP. That the capacity is checked before any input is read is the model's reading of R253's
order (DEDUCED, log 9). -/
def Obligations.DispatchIsTurnedAway : Prop :=
  (∀ (p : List Word) (s : State), WriterGuards (.dispatch p) 0x07000000 1 s) ∧
  (∀ (lc : Word) (s : State), s.ready → s.cfg.capacity < lc.toNat →
    exec (.dispatch [lc]) s = .next (s.erred .lanesOverCap 0x07000000 0))

/-- R180: READBACK returns the CAP slots, or E_DEVICE when the environment fails it; it waits while BUSY and is discarded in
ERROR. `s.fails` is the free value of the environment's choice (log 3); that a failing READBACK of unwritten slots raises E_DEVICE
and is not the model fault is the model's reading of R180's pseudocode (DEDUCED, log 9). -/
def Obligations.ReadbackReturnsOut : Prop :=
  (∀ (p : List Word) (s : State), s.out.length = s.cfg.capacity →
    (s.ready → p = [] → (s.cfg.deviceFaults && s.fails) = false → allWritten s.out = true →
      exec (.readback p) s = .next (s.answered (cellWords s.out))) ∧
    (s.ready → p = [] → (s.cfg.deviceFaults && s.fails) = false → allWritten s.out = false →
      exec (.readback p) s = .fault .modelUnwrittenRead) ∧
    (s.ready → p = [] → (s.cfg.deviceFaults && s.fails) = true →
      exec (.readback p) s = .next (s.erred .device 0x08000000 s.cfg.capacity)) ∧
    HeldWhileBusy (.readback p) 0 s ∧ DiscardedInError (.readback p) s.cfg.capacity s ∧
    PayloadChecked (.readback p) 0x08000000 0 s.cfg.capacity s) ∧
  (∀ cmd : Word, opField cmd = 0x08 → cmd ≠ 0x08000000 → IllegalWord cmd)

/-- R120, R121: HASH n returns the double SHA-256 of HDR with word 19 replaced by n, then the pass word, or E_DEVICE when the
environment fails it. `s.fails` is the free value of the environment's choice (DESIGN CHOICE, log 3). -/
def Obligations.HashReturnsDigestAndPass : Prop :=
  (∀ (p : List Word) (n : Word) (s : State),
    (s.ready → p = [n] → allWritten (s.messageCells n) = true → allWritten s.targetCells = true →
      exec (.hash p) s =
        if (s.cfg.deviceFaults && s.fails) = true then .next (s.erred .device 0x0B000000 9)
        else .next (s.answered
          (hashWords (dsha256 (s.headerWords.set 19 n)) ++
            [if cmpTarget (view s.cfg.digestOrder (dsha256 (s.headerWords.set 19 n))) s.targetWords = true then 1 else 0]))) ∧
    HeldWhileBusy (.hash p) 1 s ∧ DiscardedInError (.hash p) 9 s ∧ PayloadChecked (.hash p) 0x0B000000 1 9 s) ∧
  (∀ cmd : Word, opField cmd = 0x0B → cmd ≠ 0x0B000000 → IllegalWord cmd)

/-- R120, 93 U19: HASH neither reads nor changes HDR[19]. -/
def Obligations.HashIgnoresStoredNonce : Prop :=
  ∀ (n : Word) (c : Cell) (s : State),
    exec (.hash [n]) { s with hdr := s.hdr.set 19 c } =
      mapNext (fun t => { t with hdr := s.hdr.set 19 c }) (exec (.hash [n]) s)

/-! ### The header codec's commands -/

/-- R212: HDR_READ returns the stored word, while BUSY too. -/
def Obligations.HdrReadReturnsWord : Prop :=
  (∀ (w : BitVec 5) (p : List Word) (s : State),
    (∀ c : Cell, s.hdr[w.toNat]? = some c → s.state ≠ .error → p = [] →
      exec (.hdrRead w p) s = if c.written = true then .next (s.answered [c.value]) else .fault .modelUnwrittenRead) ∧
    DiscardedInError (.hdrRead w p) 1 s ∧ PayloadChecked (.hdrRead w p) (0x03000000 ||| w.setWidth 32) 0 1 s) ∧
  (∀ cmd : Word, opField cmd = 0x03 → 32 ≤ (idxField cmd).toNat → IllegalWord cmd)

/-- R211: HDR_DECODE returns whether the padding is right, the bus form of the template and the nonce, while BUSY too. -/
def Obligations.HdrDecodeReturnsTemplate : Prop :=
  (∀ (p : List Word) (s : State), s.hdr.length = 32 →
    (s.state ≠ .error → p = [] → allWritten s.hdr = true →
      exec (.hdrDecode p) s = .next (s.answered
        ([if (decodeHeader (cellWords s.hdr)).valid = true then 1 else 0] ++
          busForm (decodeHeader (cellWords s.hdr)).template ++ [(decodeHeader (cellWords s.hdr)).nonce]))) ∧
    (s.state ≠ .error → p = [] → allWritten s.hdr = false → exec (.hdrDecode p) s = .fault .modelUnwrittenRead) ∧
    DiscardedInError (.hdrDecode p) 21 s ∧ PayloadChecked (.hdrDecode p) 0x0A000000 0 21 s) ∧
  (∀ cmd : Word, opField cmd = 0x0A → cmd ≠ 0x0A000000 → IllegalWord cmd)

/-! ### Errors -/

/-- R258: outside ERROR a legal command with a payload of the wrong length raises E_PAYLOAD and returns Q zero words. -/
def Obligations.WrongPayloadRaises : Prop :=
  ∀ (i : Instr) (s : State), i.indexLegal = true → i.payload.length ≠ i.opcode.payloadWords → s.state ≠ .error →
    exec i s = .next (s.erred .payload i.word (responseWords s.cfg i.opcode))

/-- R256: each of the seven commands raises E_BUSY_HAZARD while STATE = BUSY. -/
def Obligations.WritesWhileBusyRaise : Prop :=
  ∀ (i : Instr) (s : State), s.state = .busy → i.wellFormed = true →
    i.opcode ∈ [.hdrUpload, .hdrWrite, .tgtWrite, .tgtUpload, .baseWrite, .templateLoad, .dispatch] →
    exec i s = .next (s.erred .busyHazard i.word 0)

/-- R257, R255: what the command unit does with an illegal word, outside ERROR and in it. That the command unit is the agent
picked, and the free values drawn after its turn, are the model's scheduler (DESIGN CHOICE, log 4, log 3). -/
def Obligations.IllegalWordRaises : Prop :=
  ∀ (s : State) (t : Transaction) (rest : List Transaction), s.queue = t :: rest → IllegalWord t.cmd →
    s.scheduled = some .commandUnit →
    step s = .next (State.redraw .commandUnit
      (if s.state = .error then { s with queue := rest, responses := s.responses ++ [[]] }
       else { s with
         state := .error, errcode := .illegalCmd, errcmd := t.cmd,
         queue := rest, responses := s.responses ++ [[]] }))

/-- R255: in ERROR every legal command but NOP, STATUS_READ, INFO_READ and RESET is discarded. -/
def Obligations.CommandsAreDiscardedInError : Prop :=
  ∀ (i : Instr) (s : State), s.state = .error → i.opcode ∉ [.nop, .statusRead, .infoRead, .reset] →
    exec i s = .next (s.answered (List.replicate (responseWords s.cfg i.opcode) 0))

/-- R254: the only way out of ERROR is RESET; until then the first error stands. -/
def Obligations.OnlyResetLeavesError : Prop :=
  ∀ s t : State, s.state = .error → step s = .next t →
    (t.state = .error ∧ t.errcode = s.errcode ∧ t.errcmd = s.errcmd) ∨
    (t.state = .idle ∧ t.errcode = .none ∧ t.errcmd = 0 ∧ s.inflight = false ∧
      ∃ u rest, s.queue = u :: rest ∧ u.cmd = 0x0E000000)

/-- R30: which commands read which words, and that an unwritten one is the model fault. -/
def Obligations.UnwrittenReadsFault : Prop :=
  ∀ (s : State), s.ready → Memory.wf s = true →
    (∀ lc : Word, lc.toNat ≤ s.cfg.capacity → s.inputsWritten = false →
      exec (.dispatch [lc]) s = .fault .modelUnwrittenRead) ∧
    (∀ n : Word, (allWritten (s.messageCells n) && allWritten s.targetCells) = false →
      exec (.hash [n]) s = .fault .modelUnwrittenRead)

/-- R261: when DEVICE_FAULTS is false E_DEVICE never occurs. -/
def Obligations.NoDeviceErrorWithoutDeviceFaults : Prop :=
  ∀ s t : State, s.cfg.deviceFaults = false → step s = .next t → t.errcode = .device → s.errcode = .device

/-- R179: a dispatch that the environment fails. -/
def Obligations.FailedDispatchRaisesDeviceError : Prop :=
  ∀ s : State, s.scheduled = some .deviceFailure →
    ∃ t, step s = .next t ∧ t.inflight = false ∧ t.lanes = [] ∧ t.state = .error ∧
      (s.state ≠ .error → t.errcode = .device ∧ t.errcmd = 0x07000000) ∧
      (s.state = .error → t.errcode = s.errcode ∧ t.errcmd = s.errcmd) ∧
      t.hdr = s.hdr ∧ t.tgt = s.tgt ∧ t.base = s.base ∧ t.lc = s.lc ∧ t.queue = s.queue ∧ t.responses = s.responses

/-! ### Frames -/

/-- R160, R161, R210: what the commands that write HDR leave alone, and which header words. -/
def Obligations.HeaderWritersFrame : Prop :=
  (∀ (p : List Word) (s t : State), (exec (.hdrUpload p) s = .next t ∨ exec (.templateLoad p) s = .next t) →
    t.tgt = s.tgt ∧ t.base = s.base ∧ DispatchKept s t) ∧
  (∀ (p : List Word) (s t : State), exec (.hdrUpload p) s = .next t →
    ErrorRegistersKept (.hdrUpload p) s t ∧ (t.state = .error → t.hdr = s.hdr)) ∧
  (∀ (p : List Word) (s t : State), exec (.templateLoad p) s = .next t →
    ErrorRegistersKept (.templateLoad p) s t ∧ (t.state = .error → t.hdr = s.hdr)) ∧
  (∀ (w : BitVec 5) (p : List Word) (s t : State), exec (.hdrWrite w p) s = .next t →
    t.tgt = s.tgt ∧ t.base = s.base ∧ DispatchKept s t ∧ ErrorRegistersKept (.hdrWrite w p) s t ∧
    (t.state = .error → t.hdr = s.hdr) ∧ (∀ j, j ≠ w.toNat → t.hdr[j]? = s.hdr[j]?))

/-- R162, R163: what the commands that write TGT leave alone, and which target words. -/
def Obligations.TargetWritersFrame : Prop :=
  (∀ (p : List Word) (s t : State), exec (.tgtUpload p) s = .next t →
    t.hdr = s.hdr ∧ t.base = s.base ∧ DispatchKept s t ∧ ErrorRegistersKept (.tgtUpload p) s t ∧
    (t.state = .error → t.tgt = s.tgt)) ∧
  (∀ (k : BitVec 3) (p : List Word) (s t : State), exec (.tgtWrite k p) s = .next t →
    t.hdr = s.hdr ∧ t.base = s.base ∧ DispatchKept s t ∧ ErrorRegistersKept (.tgtWrite k p) s t ∧
    (t.state = .error → t.tgt = s.tgt) ∧ (∀ j, j ≠ k.toNat → t.tgt[j]? = s.tgt[j]?))

/-- R164, R170: what BASE_WRITE and DISPATCH leave alone; a DISPATCH that is not accepted leaves LC, OUT and the lanes. -/
def Obligations.BaseWriteAndDispatchFrame : Prop :=
  (∀ (p : List Word) (s t : State), exec (.baseWrite p) s = .next t →
    t.hdr = s.hdr ∧ t.tgt = s.tgt ∧ DispatchKept s t ∧ ErrorRegistersKept (.baseWrite p) s t ∧
    (t.state = .error → t.base = s.base)) ∧
  (∀ (p : List Word) (s t : State), exec (.dispatch p) s = .next t →
    t.hdr = s.hdr ∧ t.tgt = s.tgt ∧ t.base = s.base ∧ t.cfg = s.cfg ∧
    t.draws = s.draws ∧ t.turn = s.turn ∧ t.patience = s.patience ∧ t.fails = s.fails ∧
    (t.state = .error → DispatchKept s t ∧ ErrorRegistersKept (.dispatch p) s t) ∧
    (t.state ≠ .error → t.state = .busy ∧ t.errcode = s.errcode ∧ t.errcmd = s.errcmd))

/-- R56: the commands that only read change no buffer and no register; only READBACK and HASH, and a wrong payload, can raise
an error. -/
def Obligations.ReadingCommandsFrame : Prop :=
  ∀ (i : Instr) (s t : State),
    i.opcode ∈ [.nop, .hdrRead, .hdrDecode, .statusRead, .infoRead, .readback, .hash] → exec i s = .next t →
    t.hdr = s.hdr ∧ t.tgt = s.tgt ∧ t.base = s.base ∧ DispatchKept s t ∧ ErrorRegistersKept i s t ∧
    (i.wellFormed = true → i.opcode ∉ [.readback, .hash] → t.state = s.state)

/-- R56: a read repeated with nothing in between returns the same words. -/
def Obligations.ReadsAreIdempotent : Prop :=
  ∀ (i : Instr) (s : State) (r : List Word),
    i.opcode ∈ [.hdrRead, .hdrDecode, .statusRead, .infoRead, .readback] → exec i s = .next (s.answered r) →
    exec i (s.answered r) = .next ((s.answered r).answered r)

/-! ### Whole-machine rules -/

/-- R33, R234: no step changes a build-time constant. -/
def Obligations.ConstantsNeverChange : Prop :=
  ∀ s t : State, step s = .next t → t.cfg = s.cfg

/-- R59: while a dispatch is in flight no step changes its inputs or its lane count. -/
def Obligations.InputsAreFrozenInFlight : Prop :=
  ∀ s t : State, Legal s → s.inflight = true → step s = .next t →
    t.hdr = s.hdr ∧ t.tgt = s.tgt ∧ t.base = s.base ∧ t.lc = s.lc

/-- R31: the transitions of STATE. -/
def Obligations.StateTransitions : Prop :=
  ∀ s t : State, step s = .next t →
    t.state = s.state ∨ (s.ready ∧ t.state = .busy ∧ ∃ u, s.queue.head? = some u ∧ u.cmd = 0x07000000) ∨
    (s.state = .busy ∧ t.state = .done ∧ s.inflight = true ∧ s.lanes = []) ∨
    (s.state ≠ .error ∧ t.state = .error) ∨
    (t.state = .idle ∧ ∃ u, s.queue.head? = some u ∧ u.cmd = 0x0E000000)

/-- R59, R70: a step completes at most one command, the oldest, and answers it once. The response log is the model's own (DESIGN
CHOICE, log 5); that the commands queued behind a RESET stay is the model's reading of R235 and R281, where R282 with R280 can
be read as an empty queue (DEDUCED, log 16). -/
def Obligations.CommandsCompleteInOrder : Prop :=
  ∀ s t : State, step s = .next t →
    (t.queue = s.queue ∧ t.responses = s.responses) ∨
    (s.queue ≠ [] ∧ t.queue = s.queue.tail ∧ ∃ r, t.responses = s.responses ++ [r])

/-- R74: a command that completes returns exactly Q response words. -/
def Obligations.CommandsReturnQWords : Prop :=
  ∀ (i : Instr) (s t : State), i.indexLegal = true → exec i s = .next t →
    t = s ∨ ∃ r, r.length = responseWords s.cfg i.opcode ∧ t.responses = s.responses ++ [r]

/-- R290: READBACK and HASH wait while STATE = BUSY, RESET while INFLIGHT, and a command behind a held one waits too. -/
def Obligations.HeldCommandsWait : Prop :=
  (∀ (i : Instr) (s : State), i.wellFormed = true → i.opcode ∈ [.readback, .hash] → s.state = .busy →
    exec i s = .next s) ∧
  (∀ s : State, s.inflight = true → exec (.reset []) s = .next s) ∧
  (∀ s t : State, s.headHolds = true → step s = .next t → t.queue = s.queue ∧ t.responses = s.responses)

/-- No step is refused, and with every word written and the buffers in form every step answers a next state (R30). -/
def Obligations.StepsComplete : Prop :=
  (∀ (s : State) (r : Refusal), step s ≠ .refused r) ∧
  (∀ s : State, Memory.wf s = true → allWritten s.hdr = true → allWritten s.tgt = true → allWritten s.out = true →
    s.base.written = true → ∃ t, step s = .next t)

/-- How a step runs an instruction: when the command unit moves (it is the only agent while nothing is in flight), the step is
exec of the instruction the head of the queue decodes to, after which new free values are drawn (log 4). -/
def Obligations.StepRunsDecodedInstruction : Prop :=
  ∀ (s : State) (u : Transaction) (rest : List Transaction) (i : Instr), s.queue = u :: rest →
    decode u.cmd u.payload = .ok i → s.headHolds = false →
    (s.inflight = false ∨ s.scheduled = some .commandUnit) →
    step s = mapNext (State.redraw .commandUnit) (exec i s)

/-! ### Invariants -/

/-- The structural invariant holds at reset. -/
def Obligations.LegalAtReset : Prop := Legal State.reset ∧ DispatchSound State.reset

/-- R20 to R35: every step keeps the structural invariant. -/
def Obligations.StepKeepsLegal : Prop :=
  ∀ s t : State, Legal s → step s = .next t → Legal t

/-- R173 to R178: every step keeps the invariant of a dispatch in flight. -/
def Obligations.StepKeepsDispatchSound : Prop :=
  ∀ s t : State, Legal s → DispatchSound s → step s = .next t → DispatchSound t

/-- R177, R178: when Completion fires, OUT is the dispatch result as one function of its inputs. -/
def Obligations.CompletionDeliversResult : Prop :=
  ∀ s : State, Legal s → DispatchSound s → s.scheduled = some .completion →
    ∃ t, step s = .next t ∧ t.inflight = false ∧ t.state = (if s.state = .busy then .done else s.state) ∧
      t.out = (List.range s.cfg.capacity).map (fun j => Cell.of (s.resultSlot j)) ∧
      t.hdr = s.hdr ∧ t.tgt = s.tgt ∧ t.base = s.base ∧ t.lc = s.lc

/-- R290, R297, R177: from a state whose head command is held, the dispatch ends and the hold is lifted within as many steps
as the dispatch has turns left; and in every run, whatever the host issues, STATUS_READ for ever among it, a dispatch in flight
ends. The bound rests on the grain of a lane's turn (DESIGN CHOICE, log 10); that the dispatch is not passed over for ever is
R297's weak fairness in the form log 4 gives it (DESIGN CHOICE), and hangs are left out (log 12). -/
def Obligations.HeldCommandIsReleased : Prop :=
  (∀ s : State, Legal s → s.headHolds = true →
    ∃ (n : Nat) (t : State), n ≤ s.remainingWork ∧ Host.Core.run Sys2Proof.core n s = .next t ∧
      t.headHolds = false ∧ t.queue = s.queue ∧ t.responses = s.responses) ∧
  (∀ (run : Nat → State) (issued : Nat → List Transaction), Legal (run 0) → HostRun run issued →
    ∃ n, (run n).inflight = false)

/-! ### The kernel and the lanes -/

/-- R174, R115: a lane on its own, a round at a time, computes DSHA256 of its message and ends after 3 · (64 + 1) turns. What
one turn is, and so the number of turns, is the model's grain (DESIGN CHOICE, log 10). -/
def Obligations.LaneComputesDoubleSha : Prop :=
  ∀ (header : List Word) (base : Word) (i : Nat),
    runLane 195 (startLane header base i) = some (dsha256 (header.set 19 (base + BitVec.ofNat 32 i)))

/-- R117: the midstate may be computed once per dispatch. -/
def Obligations.MidstateIsNonceIndependent : Prop :=
  ∀ (m : List Word) (n : Word),
    dsha256 (withNonce m n) = dsha256From (midstate m) (secondBlock (withNonce m n))

/-- R171: lane i evaluates nonce BASE + i modulo 2^32, and the nonces of one dispatch are pairwise distinct. -/
def Obligations.LaneNoncesAreDistinct : Prop :=
  (∀ (header : List Word) (base : Word) (i : Nat),
    (startLane header base i).nonce = base + BitVec.ofNat 32 i ∧
    (startLane header base i).message = header.set 19 (base + BitVec.ofNat 32 i)) ∧
  ∀ (base : Word) (i j : Nat), i < 4294967296 → j < 4294967296 → i ≠ j → laneNonce base i ≠ laneNonce base j

/-- R172: the invocations of the groups that are lanes are exactly the lanes 0 to LC − 1, once each and in order. -/
def Obligations.LaneGroupsCoverTheLanes : Prop :=
  ∀ lc g : Nat, 1 ≤ g → (invocations lc g).filter (fun k => decide (k < lc)) = List.range lc

/-! ### The comparator -/

/-- R141, R142: the word-wise scan is the comparison of the two 256-bit values. -/
def Obligations.ComparatorIsNumeric : Prop :=
  ∀ v t : List Word, v.length = 8 → t.length = 8 →
    (cmpTarget v t = true ↔ bigEndianValue v ≤ bigEndianValue t)

/-- R140: V[i] = bswap32(S[7 − i]) under BTC and V[i] = S[i] under RAW. -/
def Obligations.ViewOrdersDigestWords : Prop :=
  ∀ (s : HashState) (i : Nat) (w : Word), (hashWords s)[i]? = some w →
    (view .btc s)[7 - i]? = some (bswap32 w) ∧ (view .raw s)[i]? = some w

/-! ### The header codec's functions -/

/-- R207, R206: the round-trip laws of the codec; a buffer that is not well-formed differs from its re-encoding in the padding
words only. -/
def Obligations.CodecRoundTrips : Prop :=
  (∀ (t : BlockTemplate) (n : Word), t.wf = true → decodeHeader (encodeHeader t n) = ⟨t, n, true⟩) ∧
  (∀ w : List Word, w.length = 32 → (decodeHeader w).valid = true →
    encodeHeader (decodeHeader w).template (decodeHeader w).nonce = w) ∧
  (∀ w : List Word, w.length = 32 →
    encodeHeader (decodeHeader w).template (decodeHeader w).nonce = w.take 20 ++ headerPad)

/-- R203, R52: the header words are the big-endian words of the serialization followed by the padding bytes. -/
def Obligations.EncodePacksTheSerialization : Prop :=
  ∀ (t : BlockTemplate) (n : Word), t.wf = true →
    (serialize t n).length = 80 ∧ encodeHeader t n = packBE (serialize t n ++ headerPadBytes)

/-- R208: the bus form loses nothing, and every 20-word payload is a template's bus form and a nonce. -/
def Obligations.BusFormIsFaithful : Prop :=
  (∀ (t : BlockTemplate) (n : Word), t.wf = true →
    (busForm t).length = 19 ∧ templateOfBus (busForm t ++ [n]) = t ∧ payloadWord (busForm t ++ [n]) 19 = n) ∧
  (∀ p : List Word, p.length = 20 →
    (templateOfBus p).wf = true ∧ busForm (templateOfBus p) ++ [payloadWord p 19] = p)

/-! ### The host's side -/

/-- R181: COLLECT returns the lowest-index non-zero slot among the first LC, and none only if there is none. -/
def Obligations.CollectReturnsLowestSlot : Prop :=
  ∀ (o : List Word) (lc : Nat), lc ≤ o.length →
    (∀ n : Word, collect o lc = some n ↔
      ∃ i, i < lc ∧ o[i]? = some n ∧ n ≠ 0 ∧ ∀ j, j < i → o[j]? = some 0) ∧
    (collect o lc = none ↔ ∀ i, i < lc → o[i]? = some 0)

/-- R182: on the result of a dispatch (R178) of any header words the host's re-verification of them cannot fail, and a reported
nonce passes and is not 0 (R183); R186: the result of a search call is the device error that STATUS reports, and without one
the outcome of COLLECT and re-verification. -/
def Obligations.ReportedNoncePasses : Prop :=
  (∀ (order : DigestOrder) (t : BlockTemplate) (header target : List Word) (base : Word) (lc cap : Nat) (n : Word),
    lc ≤ cap →
    collect ((List.range cap).map (dispatchSlot order header target base lc)) lc = some n →
    n ≠ 0 ∧ concludeSearch order t header target ((List.range cap).map (dispatchSlot order header target base lc)) lc =
      .solution n (encodeHeader t n)) ∧
  (∀ (order : DigestOrder) (t : BlockTemplate) (header target slots : List Word) (lc : Nat),
    collect slots lc = none → concludeSearch order t header target slots lc = .noSolution) ∧
  (∀ (order : DigestOrder) (t : BlockTemplate) (header target slots a b c d : List Word) (lc : Nat) (s : State),
    searchCallResult order t header target lc [a, b, c, d, slots, [s.statusWord]] =
      some (if s.state = .error then .deviceError s.errcode.bits else concludeSearch order t header target slots lc))
end

