-- ==== Sys2Proof/Laws/State.lean ====
section
/-! SUPPORT. One lemma per field of State and per update of it, so that no later proof unfolds a record update. -/

namespace Sys2Proof.Machine

/-! ### complete: the head of the queue is answered -/

@[simp] theorem State.complete_cfg (s : State) (r : List Word) : (s.complete r).cfg = s.cfg := rfl
@[simp] theorem State.complete_hdr (s : State) (r : List Word) : (s.complete r).hdr = s.hdr := rfl
@[simp] theorem State.complete_tgt (s : State) (r : List Word) : (s.complete r).tgt = s.tgt := rfl
@[simp] theorem State.complete_base (s : State) (r : List Word) : (s.complete r).base = s.base := rfl
@[simp] theorem State.complete_lc (s : State) (r : List Word) : (s.complete r).lc = s.lc := rfl
@[simp] theorem State.complete_out (s : State) (r : List Word) : (s.complete r).out = s.out := rfl
@[simp] theorem State.complete_state (s : State) (r : List Word) : (s.complete r).state = s.state := rfl
@[simp] theorem State.complete_errcode (s : State) (r : List Word) : (s.complete r).errcode = s.errcode := rfl
@[simp] theorem State.complete_errcmd (s : State) (r : List Word) : (s.complete r).errcmd = s.errcmd := rfl
@[simp] theorem State.complete_inflight (s : State) (r : List Word) : (s.complete r).inflight = s.inflight := rfl
@[simp] theorem State.complete_lanes (s : State) (r : List Word) : (s.complete r).lanes = s.lanes := rfl
@[simp] theorem State.complete_queue (s : State) (r : List Word) : (s.complete r).queue = s.queue.tail := rfl
@[simp] theorem State.complete_responses (s : State) (r : List Word) : (s.complete r).responses = s.responses ++ [r] := rfl
@[simp] theorem State.complete_draws (s : State) (r : List Word) : (s.complete r).draws = s.draws := rfl
@[simp] theorem State.complete_turn (s : State) (r : List Word) : (s.complete r).turn = s.turn := rfl
@[simp] theorem State.complete_patience (s : State) (r : List Word) : (s.complete r).patience = s.patience := rfl
@[simp] theorem State.complete_fails (s : State) (r : List Word) : (s.complete r).fails = s.fails := rfl

/-! ### issue: the host sends a transaction -/

@[simp] theorem State.issue_cfg (s : State) (t : Transaction) : (s.issue t).cfg = s.cfg := rfl
@[simp] theorem State.issue_hdr (s : State) (t : Transaction) : (s.issue t).hdr = s.hdr := rfl
@[simp] theorem State.issue_tgt (s : State) (t : Transaction) : (s.issue t).tgt = s.tgt := rfl
@[simp] theorem State.issue_base (s : State) (t : Transaction) : (s.issue t).base = s.base := rfl
@[simp] theorem State.issue_lc (s : State) (t : Transaction) : (s.issue t).lc = s.lc := rfl
@[simp] theorem State.issue_out (s : State) (t : Transaction) : (s.issue t).out = s.out := rfl
@[simp] theorem State.issue_state (s : State) (t : Transaction) : (s.issue t).state = s.state := rfl
@[simp] theorem State.issue_errcode (s : State) (t : Transaction) : (s.issue t).errcode = s.errcode := rfl
@[simp] theorem State.issue_errcmd (s : State) (t : Transaction) : (s.issue t).errcmd = s.errcmd := rfl
@[simp] theorem State.issue_inflight (s : State) (t : Transaction) : (s.issue t).inflight = s.inflight := rfl
@[simp] theorem State.issue_lanes (s : State) (t : Transaction) : (s.issue t).lanes = s.lanes := rfl
@[simp] theorem State.issue_queue (s : State) (t : Transaction) : (s.issue t).queue = s.queue ++ [t] := rfl
@[simp] theorem State.issue_responses (s : State) (t : Transaction) : (s.issue t).responses = s.responses := rfl
@[simp] theorem State.issue_draws (s : State) (t : Transaction) : (s.issue t).draws = s.draws := rfl
@[simp] theorem State.issue_turn (s : State) (t : Transaction) : (s.issue t).turn = s.turn := rfl
@[simp] theorem State.issue_patience (s : State) (t : Transaction) : (s.issue t).patience = s.patience := rfl
@[simp] theorem State.issue_fails (s : State) (t : Transaction) : (s.issue t).fails = s.fails := rfl

/-! ### redraw: new free values -/

@[simp] theorem State.redraw_cfg (s : State) (a : Agent) : (s.redraw a).cfg = s.cfg := rfl
@[simp] theorem State.redraw_hdr (s : State) (a : Agent) : (s.redraw a).hdr = s.hdr := rfl
@[simp] theorem State.redraw_tgt (s : State) (a : Agent) : (s.redraw a).tgt = s.tgt := rfl
@[simp] theorem State.redraw_base (s : State) (a : Agent) : (s.redraw a).base = s.base := rfl
@[simp] theorem State.redraw_lc (s : State) (a : Agent) : (s.redraw a).lc = s.lc := rfl
@[simp] theorem State.redraw_out (s : State) (a : Agent) : (s.redraw a).out = s.out := rfl
@[simp] theorem State.redraw_state (s : State) (a : Agent) : (s.redraw a).state = s.state := rfl
@[simp] theorem State.redraw_errcode (s : State) (a : Agent) : (s.redraw a).errcode = s.errcode := rfl
@[simp] theorem State.redraw_errcmd (s : State) (a : Agent) : (s.redraw a).errcmd = s.errcmd := rfl
@[simp] theorem State.redraw_inflight (s : State) (a : Agent) : (s.redraw a).inflight = s.inflight := rfl
@[simp] theorem State.redraw_lanes (s : State) (a : Agent) : (s.redraw a).lanes = s.lanes := rfl
@[simp] theorem State.redraw_queue (s : State) (a : Agent) : (s.redraw a).queue = s.queue := rfl
@[simp] theorem State.redraw_responses (s : State) (a : Agent) : (s.redraw a).responses = s.responses := rfl
@[simp] theorem State.redraw_draws (s : State) (a : Agent) : (s.redraw a).draws = s.draws + 1 := rfl
@[simp] theorem State.redraw_turn (s : State) (a : Agent) : (s.redraw a).turn = Config.turnChoice s.draws := rfl
@[simp] theorem State.redraw_patience (s : State) (a : Agent) : (s.redraw a).patience = if a = .commandUnit ∧ s.inflight = true then s.patience - 1 else Config.patience s.draws := rfl
@[simp] theorem State.redraw_fails (s : State) (a : Agent) : (s.redraw a).fails = Config.environmentFails s.draws := rfl

/-! ### applyReset: the exit from ERROR -/

@[simp] theorem State.applyReset_cfg (s : State) : (s.applyReset).cfg = s.cfg := rfl
@[simp] theorem State.applyReset_hdr (s : State) : (s.applyReset).hdr = List.replicate 32 Cell.unwritten := rfl
@[simp] theorem State.applyReset_tgt (s : State) : (s.applyReset).tgt = List.replicate 8 Cell.unwritten := rfl
@[simp] theorem State.applyReset_base (s : State) : (s.applyReset).base = Cell.unwritten := rfl
@[simp] theorem State.applyReset_lc (s : State) : (s.applyReset).lc = 0 := rfl
@[simp] theorem State.applyReset_out (s : State) : (s.applyReset).out = List.replicate s.cfg.capacity Cell.unwritten := rfl
@[simp] theorem State.applyReset_state (s : State) : (s.applyReset).state = .idle := rfl
@[simp] theorem State.applyReset_errcode (s : State) : (s.applyReset).errcode = .none := rfl
@[simp] theorem State.applyReset_errcmd (s : State) : (s.applyReset).errcmd = 0 := rfl
@[simp] theorem State.applyReset_inflight (s : State) : (s.applyReset).inflight = false := rfl
@[simp] theorem State.applyReset_lanes (s : State) : (s.applyReset).lanes = [] := rfl
@[simp] theorem State.applyReset_queue (s : State) : (s.applyReset).queue = s.queue := rfl
@[simp] theorem State.applyReset_responses (s : State) : (s.applyReset).responses = s.responses := rfl
@[simp] theorem State.applyReset_draws (s : State) : (s.applyReset).draws = s.draws := rfl
@[simp] theorem State.applyReset_turn (s : State) : (s.applyReset).turn = s.turn := rfl
@[simp] theorem State.applyReset_patience (s : State) : (s.applyReset).patience = s.patience := rfl
@[simp] theorem State.applyReset_fails (s : State) : (s.applyReset).fails = s.fails := rfl

/-! ### acceptDispatch: a dispatch is accepted -/

@[simp] theorem State.acceptDispatch_cfg (s : State) (h : List Word) (n : Word) : (s.acceptDispatch h n).cfg = s.cfg := rfl
@[simp] theorem State.acceptDispatch_hdr (s : State) (h : List Word) (n : Word) : (s.acceptDispatch h n).hdr = s.hdr := rfl
@[simp] theorem State.acceptDispatch_tgt (s : State) (h : List Word) (n : Word) : (s.acceptDispatch h n).tgt = s.tgt := rfl
@[simp] theorem State.acceptDispatch_base (s : State) (h : List Word) (n : Word) : (s.acceptDispatch h n).base = s.base := rfl
@[simp] theorem State.acceptDispatch_lc (s : State) (h : List Word) (n : Word) : (s.acceptDispatch h n).lc = n := rfl
@[simp] theorem State.acceptDispatch_out (s : State) (h : List Word) (n : Word) : (s.acceptDispatch h n).out = List.replicate s.cfg.capacity (Cell.of 0) := rfl
@[simp] theorem State.acceptDispatch_state (s : State) (h : List Word) (n : Word) : (s.acceptDispatch h n).state = .busy := rfl
@[simp] theorem State.acceptDispatch_errcode (s : State) (h : List Word) (n : Word) : (s.acceptDispatch h n).errcode = s.errcode := rfl
@[simp] theorem State.acceptDispatch_errcmd (s : State) (h : List Word) (n : Word) : (s.acceptDispatch h n).errcmd = s.errcmd := rfl
@[simp] theorem State.acceptDispatch_inflight (s : State) (h : List Word) (n : Word) : (s.acceptDispatch h n).inflight = true := rfl
@[simp] theorem State.acceptDispatch_lanes (s : State) (h : List Word) (n : Word) : (s.acceptDispatch h n).lanes = (List.range n.toNat).map (startLane h s.base.value) := rfl
@[simp] theorem State.acceptDispatch_queue (s : State) (h : List Word) (n : Word) : (s.acceptDispatch h n).queue = s.queue := rfl
@[simp] theorem State.acceptDispatch_responses (s : State) (h : List Word) (n : Word) : (s.acceptDispatch h n).responses = s.responses := rfl
@[simp] theorem State.acceptDispatch_draws (s : State) (h : List Word) (n : Word) : (s.acceptDispatch h n).draws = s.draws := rfl
@[simp] theorem State.acceptDispatch_turn (s : State) (h : List Word) (n : Word) : (s.acceptDispatch h n).turn = s.turn := rfl
@[simp] theorem State.acceptDispatch_patience (s : State) (h : List Word) (n : Word) : (s.acceptDispatch h n).patience = s.patience := rfl
@[simp] theorem State.acceptDispatch_fails (s : State) (h : List Word) (n : Word) : (s.acceptDispatch h n).fails = s.fails := rfl

/-! ### withFetchWord: a command placed for the next step -/

@[simp] theorem State.withFetchWord_cfg (s : State) (n w : Nat) : (s.withFetchWord n w).cfg = s.cfg := rfl
@[simp] theorem State.withFetchWord_hdr (s : State) (n w : Nat) : (s.withFetchWord n w).hdr = s.hdr := rfl
@[simp] theorem State.withFetchWord_tgt (s : State) (n w : Nat) : (s.withFetchWord n w).tgt = s.tgt := rfl
@[simp] theorem State.withFetchWord_base (s : State) (n w : Nat) : (s.withFetchWord n w).base = s.base := rfl
@[simp] theorem State.withFetchWord_lc (s : State) (n w : Nat) : (s.withFetchWord n w).lc = s.lc := rfl
@[simp] theorem State.withFetchWord_out (s : State) (n w : Nat) : (s.withFetchWord n w).out = s.out := rfl
@[simp] theorem State.withFetchWord_state (s : State) (n w : Nat) : (s.withFetchWord n w).state = s.state := rfl
@[simp] theorem State.withFetchWord_errcode (s : State) (n w : Nat) : (s.withFetchWord n w).errcode = s.errcode := rfl
@[simp] theorem State.withFetchWord_errcmd (s : State) (n w : Nat) : (s.withFetchWord n w).errcmd = s.errcmd := rfl
@[simp] theorem State.withFetchWord_inflight (s : State) (n w : Nat) : (s.withFetchWord n w).inflight = s.inflight := rfl
@[simp] theorem State.withFetchWord_lanes (s : State) (n w : Nat) : (s.withFetchWord n w).lanes = s.lanes := rfl
@[simp] theorem State.withFetchWord_queue (s : State) (n w : Nat) : (s.withFetchWord n w).queue = tableTransaction n w :: s.queue := rfl
@[simp] theorem State.withFetchWord_responses (s : State) (n w : Nat) : (s.withFetchWord n w).responses = s.responses := rfl
@[simp] theorem State.withFetchWord_draws (s : State) (n w : Nat) : (s.withFetchWord n w).draws = s.draws := rfl
@[simp] theorem State.withFetchWord_turn (s : State) (n w : Nat) : (s.withFetchWord n w).turn = s.turn := rfl
@[simp] theorem State.withFetchWord_patience (s : State) (n w : Nat) : (s.withFetchWord n w).patience = s.patience := rfl
@[simp] theorem State.withFetchWord_fails (s : State) (n w : Nat) : (s.withFetchWord n w).fails = s.fails := rfl

/-! ### enterError: what error entry leaves alone (spec/60_exceptions.md R252) -/

@[simp] theorem State.enterError_cfg (s : State) (c : ErrorCode) (w : Word) : (s.enterError c w).cfg = s.cfg := by
  unfold State.enterError; split <;> rfl
@[simp] theorem State.enterError_hdr (s : State) (c : ErrorCode) (w : Word) : (s.enterError c w).hdr = s.hdr := by
  unfold State.enterError; split <;> rfl
@[simp] theorem State.enterError_tgt (s : State) (c : ErrorCode) (w : Word) : (s.enterError c w).tgt = s.tgt := by
  unfold State.enterError; split <;> rfl
@[simp] theorem State.enterError_base (s : State) (c : ErrorCode) (w : Word) : (s.enterError c w).base = s.base := by
  unfold State.enterError; split <;> rfl
@[simp] theorem State.enterError_lc (s : State) (c : ErrorCode) (w : Word) : (s.enterError c w).lc = s.lc := by
  unfold State.enterError; split <;> rfl
@[simp] theorem State.enterError_out (s : State) (c : ErrorCode) (w : Word) : (s.enterError c w).out = s.out := by
  unfold State.enterError; split <;> rfl
@[simp] theorem State.enterError_inflight (s : State) (c : ErrorCode) (w : Word) : (s.enterError c w).inflight = s.inflight := by
  unfold State.enterError; split <;> rfl
@[simp] theorem State.enterError_lanes (s : State) (c : ErrorCode) (w : Word) : (s.enterError c w).lanes = s.lanes := by
  unfold State.enterError; split <;> rfl
@[simp] theorem State.enterError_queue (s : State) (c : ErrorCode) (w : Word) : (s.enterError c w).queue = s.queue := by
  unfold State.enterError; split <;> rfl
@[simp] theorem State.enterError_responses (s : State) (c : ErrorCode) (w : Word) : (s.enterError c w).responses = s.responses := by
  unfold State.enterError; split <;> rfl
@[simp] theorem State.enterError_draws (s : State) (c : ErrorCode) (w : Word) : (s.enterError c w).draws = s.draws := by
  unfold State.enterError; split <;> rfl
@[simp] theorem State.enterError_turn (s : State) (c : ErrorCode) (w : Word) : (s.enterError c w).turn = s.turn := by
  unfold State.enterError; split <;> rfl
@[simp] theorem State.enterError_patience (s : State) (c : ErrorCode) (w : Word) : (s.enterError c w).patience = s.patience := by
  unfold State.enterError; split <;> rfl
@[simp] theorem State.enterError_fails (s : State) (c : ErrorCode) (w : Word) : (s.enterError c w).fails = s.fails := by
  unfold State.enterError; split <;> rfl

/-- After error entry STATE is ERROR, whatever it was. -/
@[simp] theorem State.enterError_state (s : State) (c : ErrorCode) (w : Word) : (s.enterError c w).state = .error := by
  unfold State.enterError; split
  · assumption
  · rfl

/-- In ERROR the first error stands. -/
theorem State.enterError_of_error {s : State} (h : s.state = .error) (c : ErrorCode) (w : Word) : s.enterError c w = s := by
  simp [State.enterError, h]

/-- Outside ERROR the error is recorded. -/
theorem State.enterError_of_ne {s : State} (h : s.state ≠ .error) (c : ErrorCode) (w : Word) :
    s.enterError c w = { s with errcode := c, errcmd := w, state := .error } := by
  simp [State.enterError, h]

/-! ### reject: error entry and the zero response -/

@[simp] theorem State.reject_cfg (s : State) (c : ErrorCode) (w : Word) (q : Nat) : (s.reject c w q).cfg = s.cfg := by
  simp [State.reject]
@[simp] theorem State.reject_hdr (s : State) (c : ErrorCode) (w : Word) (q : Nat) : (s.reject c w q).hdr = s.hdr := by
  simp [State.reject]
@[simp] theorem State.reject_tgt (s : State) (c : ErrorCode) (w : Word) (q : Nat) : (s.reject c w q).tgt = s.tgt := by
  simp [State.reject]
@[simp] theorem State.reject_base (s : State) (c : ErrorCode) (w : Word) (q : Nat) : (s.reject c w q).base = s.base := by
  simp [State.reject]
@[simp] theorem State.reject_lc (s : State) (c : ErrorCode) (w : Word) (q : Nat) : (s.reject c w q).lc = s.lc := by
  simp [State.reject]
@[simp] theorem State.reject_out (s : State) (c : ErrorCode) (w : Word) (q : Nat) : (s.reject c w q).out = s.out := by
  simp [State.reject]
@[simp] theorem State.reject_state (s : State) (c : ErrorCode) (w : Word) (q : Nat) : (s.reject c w q).state = .error := by
  simp [State.reject]
@[simp] theorem State.reject_inflight (s : State) (c : ErrorCode) (w : Word) (q : Nat) : (s.reject c w q).inflight = s.inflight := by
  simp [State.reject]
@[simp] theorem State.reject_lanes (s : State) (c : ErrorCode) (w : Word) (q : Nat) : (s.reject c w q).lanes = s.lanes := by
  simp [State.reject]
@[simp] theorem State.reject_queue (s : State) (c : ErrorCode) (w : Word) (q : Nat) : (s.reject c w q).queue = s.queue.tail := by
  simp [State.reject]
@[simp] theorem State.reject_responses (s : State) (c : ErrorCode) (w : Word) (q : Nat) : (s.reject c w q).responses = s.responses ++ [zeros q] := by
  simp [State.reject]
@[simp] theorem State.reject_draws (s : State) (c : ErrorCode) (w : Word) (q : Nat) : (s.reject c w q).draws = s.draws := by
  simp [State.reject]
@[simp] theorem State.reject_turn (s : State) (c : ErrorCode) (w : Word) (q : Nat) : (s.reject c w q).turn = s.turn := by
  simp [State.reject]
@[simp] theorem State.reject_patience (s : State) (c : ErrorCode) (w : Word) (q : Nat) : (s.reject c w q).patience = s.patience := by
  simp [State.reject]
@[simp] theorem State.reject_fails (s : State) (c : ErrorCode) (w : Word) (q : Nat) : (s.reject c w q).fails = s.fails := by
  simp [State.reject]

/-- In ERROR a rejected command is discarded. -/
theorem State.reject_of_error {s : State} (h : s.state = .error) (c : ErrorCode) (w : Word) (q : Nat) :
    s.reject c w q = s.answered (List.replicate q 0) := by
  simp [State.reject, State.enterError_of_error h, zeros, State.answered, State.complete]

/-- Outside ERROR a rejected command raises its error. -/
theorem State.reject_of_ne {s : State} (h : s.state ≠ .error) (c : ErrorCode) (w : Word) (q : Nat) :
    s.reject c w q = s.erred c w q := by
  simp [State.reject, State.enterError_of_ne h, zeros, State.erred, State.complete]

/-- Completing a transaction is answering it. -/
theorem State.complete_eq_answered (s : State) (r : List Word) : s.complete r = s.answered r := rfl

/-! ### answered: the specification's word for complete -/

@[simp] theorem State.answered_cfg (s : State) (r : List Word) : (s.answered r).cfg = s.cfg := rfl
@[simp] theorem State.answered_hdr (s : State) (r : List Word) : (s.answered r).hdr = s.hdr := rfl
@[simp] theorem State.answered_tgt (s : State) (r : List Word) : (s.answered r).tgt = s.tgt := rfl
@[simp] theorem State.answered_base (s : State) (r : List Word) : (s.answered r).base = s.base := rfl
@[simp] theorem State.answered_lc (s : State) (r : List Word) : (s.answered r).lc = s.lc := rfl
@[simp] theorem State.answered_out (s : State) (r : List Word) : (s.answered r).out = s.out := rfl
@[simp] theorem State.answered_state (s : State) (r : List Word) : (s.answered r).state = s.state := rfl
@[simp] theorem State.answered_errcode (s : State) (r : List Word) : (s.answered r).errcode = s.errcode := rfl
@[simp] theorem State.answered_errcmd (s : State) (r : List Word) : (s.answered r).errcmd = s.errcmd := rfl
@[simp] theorem State.answered_inflight (s : State) (r : List Word) : (s.answered r).inflight = s.inflight := rfl
@[simp] theorem State.answered_lanes (s : State) (r : List Word) : (s.answered r).lanes = s.lanes := rfl
@[simp] theorem State.answered_queue (s : State) (r : List Word) : (s.answered r).queue = s.queue.tail := rfl
@[simp] theorem State.answered_responses (s : State) (r : List Word) : (s.answered r).responses = s.responses ++ [r] := rfl
@[simp] theorem State.answered_draws (s : State) (r : List Word) : (s.answered r).draws = s.draws := rfl
@[simp] theorem State.answered_turn (s : State) (r : List Word) : (s.answered r).turn = s.turn := rfl
@[simp] theorem State.answered_patience (s : State) (r : List Word) : (s.answered r).patience = s.patience := rfl
@[simp] theorem State.answered_fails (s : State) (r : List Word) : (s.answered r).fails = s.fails := rfl

/-! ### erred: the specification's word for an error outside ERROR -/

@[simp] theorem State.erred_cfg (s : State) (c : ErrorCode) (w : Word) (q : Nat) : (s.erred c w q).cfg = s.cfg := rfl
@[simp] theorem State.erred_hdr (s : State) (c : ErrorCode) (w : Word) (q : Nat) : (s.erred c w q).hdr = s.hdr := rfl
@[simp] theorem State.erred_tgt (s : State) (c : ErrorCode) (w : Word) (q : Nat) : (s.erred c w q).tgt = s.tgt := rfl
@[simp] theorem State.erred_base (s : State) (c : ErrorCode) (w : Word) (q : Nat) : (s.erred c w q).base = s.base := rfl
@[simp] theorem State.erred_lc (s : State) (c : ErrorCode) (w : Word) (q : Nat) : (s.erred c w q).lc = s.lc := rfl
@[simp] theorem State.erred_out (s : State) (c : ErrorCode) (w : Word) (q : Nat) : (s.erred c w q).out = s.out := rfl
@[simp] theorem State.erred_state (s : State) (c : ErrorCode) (w : Word) (q : Nat) : (s.erred c w q).state = .error := rfl
@[simp] theorem State.erred_errcode (s : State) (c : ErrorCode) (w : Word) (q : Nat) : (s.erred c w q).errcode = c := rfl
@[simp] theorem State.erred_errcmd (s : State) (c : ErrorCode) (w : Word) (q : Nat) : (s.erred c w q).errcmd = w := rfl
@[simp] theorem State.erred_inflight (s : State) (c : ErrorCode) (w : Word) (q : Nat) : (s.erred c w q).inflight = s.inflight := rfl
@[simp] theorem State.erred_lanes (s : State) (c : ErrorCode) (w : Word) (q : Nat) : (s.erred c w q).lanes = s.lanes := rfl
@[simp] theorem State.erred_queue (s : State) (c : ErrorCode) (w : Word) (q : Nat) : (s.erred c w q).queue = s.queue.tail := rfl
@[simp] theorem State.erred_responses (s : State) (c : ErrorCode) (w : Word) (q : Nat) : (s.erred c w q).responses = s.responses ++ [List.replicate q 0] := rfl
@[simp] theorem State.erred_draws (s : State) (c : ErrorCode) (w : Word) (q : Nat) : (s.erred c w q).draws = s.draws := rfl
@[simp] theorem State.erred_turn (s : State) (c : ErrorCode) (w : Word) (q : Nat) : (s.erred c w q).turn = s.turn := rfl
@[simp] theorem State.erred_patience (s : State) (c : ErrorCode) (w : Word) (q : Nat) : (s.erred c w q).patience = s.patience := rfl
@[simp] theorem State.erred_fails (s : State) (c : ErrorCode) (w : Word) (q : Nat) : (s.erred c w q).fails = s.fails := rfl

end Sys2Proof.Machine
end

