-- ==== Sys2Proof/Laws/Ops.lean ====
section
/-! SUPPORT. What each shared operation does, said once: reading and writing buffers keeps their canonical form, and what the
checks before a command can answer. -/

namespace Sys2Proof.Machine

/-! ### Cells and buffers -/

@[simp] theorem Cell.of_value (w : Word) : (Cell.of w).value = w := rfl
@[simp] theorem Cell.of_written (w : Word) : (Cell.of w).written = true := rfl
@[simp] theorem Cell.unwritten_written : Cell.unwritten.written = false := rfl

/-- Writing words keeps a buffer's length, its canonical form. -/
@[simp] theorem memWrite_length (buf : Buffer) (i : Nat) (ws : List Word) : (memWrite buf i ws).length = buf.length := by
  induction ws generalizing buf i with
  | nil => rfl
  | cons w ws ih => simp [memWrite, ih]

/-- A write leaves every cell outside the written range as it was. -/
theorem memWrite_get_outside (buf : Buffer) (i : Nat) (ws : List Word) (j : Nat) (h : j < i ∨ i + ws.length ≤ j) :
    (memWrite buf i ws)[j]? = buf[j]? := by
  induction ws generalizing buf i with
  | nil => rfl
  | cons w ws ih =>
    simp only [List.length_cons] at h
    rw [memWrite, ih _ _ (by omega), List.getElem?_set_ne (by omega)]

/-- A write leaves word k of what was written in cell i + k. -/
theorem memWrite_get_inside (buf : Buffer) (i : Nat) (ws : List Word) (k : Nat) (hk : k < ws.length)
    (hi : i + ws.length ≤ buf.length) : (memWrite buf i ws)[i + k]? = some (Cell.of ws[k]) := by
  induction ws generalizing buf i k with
  | nil => simp at hk
  | cons w ws ih =>
    simp only [List.length_cons] at hk hi
    rw [memWrite]
    cases k with
    | zero =>
      rw [memWrite_get_outside _ _ _ _ (by omega), Nat.add_zero, List.getElem?_set_self (by omega)]
      rfl
    | succ k =>
      have := ih (buf.set i (Cell.of w)) (i + 1) k (by omega) (by simp; omega)
      simpa [Nat.add_assoc, Nat.add_comm 1 k] using this

/-- Writing as many words as a buffer has replaces it. -/
theorem memWrite_all (buf : Buffer) (ws : List Word) (h : ws.length = buf.length) :
    memWrite buf 0 ws = ws.map Cell.of := by
  apply List.ext_getElem?
  intro j
  by_cases hj : j < ws.length
  · have := memWrite_get_inside buf 0 ws j hj (by omega)
    simp only [Nat.zero_add] at this
    simp [this, hj]
  · simp [List.getElem?_eq_none (Nat.le_of_not_lt hj),
      List.getElem?_eq_none (l := memWrite buf 0 ws) (i := j) (by simp; omega)]

/-- Writing one word sets one cell. -/
@[simp] theorem memWrite_one (buf : Buffer) (i : Nat) (w : Word) : memWrite buf i [w] = buf.set i (Cell.of w) := rfl

@[simp] theorem memRead_length (buf : Buffer) (i n : Nat) : (memRead buf i n).length = n := by
  induction n generalizing i with
  | zero => rfl
  | succ n ih => simp [memRead, ih]

/-- Reading n cells gives cells i, …, i + n − 1. -/
theorem memRead_get (buf : Buffer) (i n k : Nat) (hk : k < n) : (memRead buf i n)[k]? = some (cellAt buf (i + k)) := by
  induction n generalizing i k with
  | zero => omega
  | succ n ih =>
    cases k with
    | zero => simp [memRead]
    | succ k =>
      have := ih (i + 1) k (by omega)
      simpa [memRead, Nat.add_assoc, Nat.add_comm 1 k] using this

/-- Reading a whole buffer gives its cells. -/
theorem memRead_all (buf : Buffer) (n : Nat) (h : buf.length = n) : memRead buf 0 n = buf := by
  apply List.ext_getElem?
  intro j
  by_cases hj : j < n
  · rw [memRead_get _ _ _ _ hj]; simp [cellAt, List.getD, List.getElem?_eq_getElem (h ▸ hj)]
  · rw [List.getElem?_eq_none (by simp; omega), List.getElem?_eq_none (by omega)]

@[simp] theorem allWritten_map_of (ws : List Word) : allWritten (ws.map Cell.of) = true := by
  simp [allWritten]

@[simp] theorem allWritten_replicate_of (n : Nat) (w : Word) : allWritten (List.replicate n (Cell.of w)) = true := by
  simp [allWritten]

/-- Writing words into written cells leaves all cells written. -/
theorem allWritten_memWrite (buf : Buffer) (i : Nat) (ws : List Word) (h : allWritten buf = true) :
    allWritten (memWrite buf i ws) = true := by
  induction ws generalizing buf i with
  | nil => exact h
  | cons w ws ih =>
    apply ih
    simp only [allWritten, List.all_eq_true] at h ⊢
    intro c hc
    rcases List.mem_or_eq_of_mem_set hc with hc | rfl
    · exact h c hc
    · rfl

/-- Every operation that changes a buffer keeps the canonical form (spec/20_memory.md R50). -/
theorem Memory.wf_iff (s : State) :
    Memory.wf s = true ↔ s.hdr.length = 32 ∧ s.tgt.length = 8 ∧ s.out.length = s.cfg.capacity := by
  simp [Memory.wf, and_assoc]

/-- The reset memory is in canonical form, for every build. -/
theorem Memory.wf_resetOf (cfg : Config) : Memory.wf (State.resetOf cfg) = true := by
  simp [Memory.wf_iff, State.resetOf]

/-- MemWrite on any of the three buffers keeps the canonical form. -/
theorem Memory.wf_memWrite (s : State) (i : Nat) (ws : List Word) (h : Memory.wf s = true) :
    Memory.wf { s with hdr := memWrite s.hdr i ws } = true ∧ Memory.wf { s with tgt := memWrite s.tgt i ws } = true ∧
    Memory.wf { s with out := memWrite s.out i ws } = true := by
  simpa [Memory.wf_iff] using h

/-- The clearing of OUT at acceptance keeps the canonical form. -/
theorem Memory.wf_acceptDispatch (s : State) (header : List Word) (lc : Word) (h : Memory.wf s = true) :
    Memory.wf (s.acceptDispatch header lc) = true := by
  simp [Memory.wf_iff] at h ⊢; omega

/-- The reset of the buffers gives the canonical form. -/
theorem Memory.wf_applyReset (s : State) : Memory.wf s.applyReset = true := by
  simp [Memory.wf_iff]

@[simp] theorem failedOut_length (d n : Nat) : (failedOut d n).length = n := by simp [failedOut]

@[simp] theorem allWritten_failedOut (d n : Nat) : allWritten (failedOut d n) = true := by
  simp [allWritten, failedOut]

/-! ### Reading with the written marks -/

/-- Reading answers what `use` does with the words when all are written. -/
theorem readWords_of_written {cells : List Cell} (h : allWritten cells = true) (use : List Word → Result) :
    readWords cells use = use (cellWords cells) := by simp [readWords, h]

/-- Reading an unwritten word is the model fault (spec/10_state.md R30). -/
theorem readWords_of_unwritten {cells : List Cell} (h : allWritten cells = false) (use : List Word → Result) :
    readWords cells use = .fault .modelUnwrittenRead := by simp [readWords, h]

/-- A read that answers a next state has read written words. -/
theorem readWords_next {cells : List Cell} {use : List Word → Result} {t : State} (h : readWords cells use = .next t) :
    allWritten cells = true ∧ use (cellWords cells) = .next t := by
  unfold readWords at h
  split at h
  · exact ⟨‹_›, h⟩
  · cases h

/-! ### The checks before a command -/

/-- What `guarded` can answer (spec/60_exceptions.md R253): the command is rejected by one of the checks (in ERROR without an
effect), it is held, or it runs; and what is known then. -/
theorem guarded_cases (i : Instr) (s : State) (run : Result) :
    (∃ code q, code ≠ .none ∧ code ≠ .device ∧ guarded i s run = .next (s.reject code i.word q)) ∨
    (holds i.opcode s = true ∧ guarded i s run = .next s) ∨
    (guarded i s run = run ∧ (s.state = .error → executesInError i.opcode = true) ∧ i.indexLegal = true ∧
      i.payload.length = i.opcode.payloadWords ∧ (s.state = .busy → refusedWhileBusy i.opcode = false) ∧
      holds i.opcode s = false) := by
  unfold guarded
  split
  · rename_i h
    exact .inl ⟨.payload, responseWords s.cfg i.opcode, nofun, nofun, by
      rw [State.reject_of_error h.1]; rfl⟩
  · split
    · exact .inl ⟨.illegalCmd, 0, nofun, nofun, rfl⟩
    · split
      · exact .inl ⟨.payload, _, nofun, nofun, rfl⟩
      · split
        · exact .inl ⟨.busyHazard, _, nofun, nofun, rfl⟩
        · split
          · exact .inr (.inl ⟨‹_›, rfl⟩)
          · refine .inr (.inr ⟨rfl, ?_, ?_, ?_, ?_, ?_⟩) <;> simp_all

/-- A command that passes the checks runs. -/
theorem guarded_run {i : Instr} {s : State} (run : Result)
    (herr : s.state = .error → executesInError i.opcode = true) (hwf : i.wellFormed = true)
    (hbusy : s.state = .busy → refusedWhileBusy i.opcode = false) (hhold : holds i.opcode s = false) :
    guarded i s run = run := by
  simp only [Instr.wellFormed, Bool.and_eq_true, decide_eq_true_eq] at hwf
  unfold guarded
  rw [if_neg (by simp_all), if_neg (by simp_all), if_neg (by simp_all), if_neg (by simp_all), if_neg (by simp_all)]

/-- In ERROR every command but NOP, STATUS_READ, INFO_READ and RESET is discarded (spec/60_exceptions.md R255). -/
theorem guarded_discard {i : Instr} {s : State} (run : Result) (h : s.state = .error)
    (hi : executesInError i.opcode = false) :
    guarded i s run = .next (s.answered (List.replicate (responseWords s.cfg i.opcode) 0)) := by
  simp [guarded, h, hi, zeros, State.complete_eq_answered]

/-- Outside ERROR a wrong payload length raises E_PAYLOAD (spec/60_exceptions.md R258). -/
theorem guarded_payload {i : Instr} {s : State} (run : Result) (h : s.state ≠ .error) (hi : i.indexLegal = true)
    (hp : i.payload.length ≠ i.opcode.payloadWords) :
    guarded i s run = .next (s.erred .payload i.word (responseWords s.cfg i.opcode)) := by
  simp [guarded, h, hi, hp, State.reject_of_ne]

/-- A writing command in BUSY raises E_BUSY_HAZARD (spec/60_exceptions.md R256). -/
theorem guarded_busy {i : Instr} {s : State} (run : Result) (h : s.state = .busy) (hw : i.wellFormed = true)
    (hi : refusedWhileBusy i.opcode = true) :
    guarded i s run = .next (s.erred .busyHazard i.word (responseWords s.cfg i.opcode)) := by
  simp only [Instr.wellFormed, Bool.and_eq_true, decide_eq_true_eq] at hw
  simp [guarded, h, hw, hi, State.reject_of_ne]

/-- A held command changes nothing (spec/70_reset_and_hazards.md R290). -/
theorem guarded_hold {i : Instr} {s : State} (run : Result) (hw : i.wellFormed = true)
    (herr : s.state = .error → executesInError i.opcode = true)
    (hbusy : s.state = .busy → refusedWhileBusy i.opcode = false) (hh : holds i.opcode s = true) :
    guarded i s run = .next s := by
  simp only [Instr.wellFormed, Bool.and_eq_true, decide_eq_true_eq] at hw
  unfold guarded
  rw [if_neg (by simp_all), if_neg (by simp_all), if_neg (by simp_all), if_neg (by simp_all), if_pos hh]

end Sys2Proof.Machine
end

