-- ==== Sys2Proof/Laws/Codec.lean ====
section
/-! SUPPORT. The small laws of byte order and of packing bytes into words (spec/00_scope.md R9, spec/20_memory.md R52). -/

namespace Sys2Proof.Machine

/-- A word is the composition of its four bytes. -/
theorem loadBE_bytes (w : Word) :
    loadBE (w.extractLsb' 24 8) (w.extractLsb' 16 8) (w.extractLsb' 8 8) (w.extractLsb' 0 8) = w := by
  apply BitVec.eq_of_getLsbD_eq
  intro i hi
  simp only [loadBE, BitVec.getLsbD_append, BitVec.getLsbD_extractLsb']
  interval_cases i <;> simp

/-- The bytes of a composed word are the bytes it was composed of. -/
theorem be32_loadBE (b0 b1 b2 b3 : Byte) : be32 (loadBE b0 b1 b2 b3) = [b0, b1, b2, b3] := by
  simp only [be32, loadBE, List.cons.injEq, and_true]
  refine ⟨?_, ?_, ?_, ?_⟩ <;>
  · apply BitVec.eq_of_getLsbD_eq
    intro i hi
    simp only [BitVec.getLsbD_append, BitVec.getLsbD_extractLsb']
    interval_cases i <;> simp

/-- Reversing the bytes of a word twice gives the word back. -/
theorem bswap32_bswap32 (w : Word) : bswap32 (bswap32 w) = w := by
  have h := be32_loadBE (w.extractLsb' 0 8) (w.extractLsb' 8 8) (w.extractLsb' 16 8) (w.extractLsb' 24 8)
  simp only [be32, List.cons.injEq, and_true] at h
  obtain ⟨h0, h1, h2, h3⟩ := h
  show loadBE ((bswap32 w).extractLsb' 0 8) ((bswap32 w).extractLsb' 8 8) ((bswap32 w).extractLsb' 16 8)
    ((bswap32 w).extractLsb' 24 8) = w
  rw [show bswap32 w = loadBE (w.extractLsb' 0 8) (w.extractLsb' 8 8) (w.extractLsb' 16 8) (w.extractLsb' 24 8) from rfl,
    h0, h1, h2, h3, loadBE_bytes]

@[simp] theorem be32_length (w : Word) : (be32 w).length = 4 := rfl
@[simp] theorem le32_length (w : Word) : (le32 w).length = 4 := rfl

/-- Packing bytes that begin with the four bytes of a word gives that word first. -/
@[simp] theorem packBE_be32_append (w : Word) (bs : List Byte) : packBE (be32 w ++ bs) = w :: packBE bs := by
  simp [be32, packBE, loadBE_bytes]

/-- Little-endian bytes pack to the byte-swapped word. -/
@[simp] theorem packBE_le32_append (w : Word) (bs : List Byte) : packBE (le32 w ++ bs) = bswap32 w :: packBE bs := by
  simp [le32, packBE, bswap32]

/-- Packing undoes unpacking. -/
@[simp] theorem packBE_unpackBE (ws : List Word) : packBE (unpackBE ws) = ws := by
  induction ws with
  | nil => rfl
  | cons w ws ih =>
    show packBE (be32 w ++ unpackBE ws) = w :: ws
    rw [packBE_be32_append, ih]

@[simp] theorem unpackBE_length (ws : List Word) : (unpackBE ws).length = 4 * ws.length := by
  induction ws with
  | nil => rfl
  | cons w ws ih =>
    have h : (unpackBE (w :: ws)).length = (be32 w ++ unpackBE ws).length := rfl
    rw [h, List.length_append, ih, be32_length, List.length_cons]; omega

/-- Unpacking undoes packing when the bytes come in fours; and so many words are packed. -/
theorem unpackBE_packBE (n : Nat) (bs : List Byte) (h : bs.length = 4 * n) :
    unpackBE (packBE bs) = bs ∧ (packBE bs).length = n := by
  induction n generalizing bs with
  | zero =>
    have : bs = [] := List.length_eq_zero_iff.mp (by omega)
    subst this; exact ⟨rfl, rfl⟩
  | succ n ih =>
    match bs, h with
    | b0 :: b1 :: b2 :: b3 :: rest, h =>
      obtain ⟨h1, h2⟩ := ih rest (by simp only [List.length_cons] at h; omega)
      refine ⟨?_, by rw [packBE, List.length_cons, h2]⟩
      show be32 (loadBE b0 b1 b2 b3) ++ unpackBE (packBE rest) = _
      rw [be32_loadBE, h1]; rfl

/-- Packing a multiple of four bytes and then more packs each part. -/
theorem packBE_append (n : Nat) (bs cs : List Byte) (h : bs.length = 4 * n) :
    packBE (bs ++ cs) = packBE bs ++ packBE cs := by
  induction n generalizing bs with
  | zero =>
    have : bs = [] := List.length_eq_zero_iff.mp (by omega)
    subst this; rfl
  | succ n ih =>
    match bs, h with
    | b0 :: b1 :: b2 :: b3 :: rest, h =>
      have := ih rest (by simp only [List.length_cons] at h; omega)
      simp [packBE, this]

@[simp] theorem cellWords_map_of (ws : List Word) : cellWords (ws.map Cell.of) = ws := by
  simp [cellWords, Function.comp_def]

/-- The words that a lane or HASH works on are HDR's with word 19 replaced. -/
theorem messageCells_words (s : State) (n : Word) : cellWords (s.messageCells n) = withNonce (cellWords (memRead s.hdr 0 32)) n := by
  simp [State.messageCells, withNonce, cellWords, List.map_set]

/-- Only the last of two nonces put into a message counts. -/
@[simp] theorem withNonce_withNonce (m : List Word) (a b : Word) : withNonce (withNonce m a) b = withNonce m b := by
  simp [withNonce]

end Sys2Proof.Machine
end

