-- ==== Sys2Proof/Laws/Step.lean ====
section
/-! SUPPORT. What an instruction can do and what a step can do, said once: the cases of a next state, from which frames and
invariants follow without unfolding exec or step. -/

namespace Sys2Proof.Machine

@[simp] theorem mapNext_next (f : State → State) (s : State) : mapNext f (.next s) = .next (f s) := rfl
@[simp] theorem mapNext_fault (f : State → State) (e : Fault) : mapNext f (.fault e) = .fault e := rfl
@[simp] theorem mapNext_refused (f : State → State) (r : Refusal) : mapNext f (.refused r) = .refused r := rfl

/-- The next states of an instruction. -/
inductive ExecCase (i : Instr) (s : State) : State → Prop where
  /-- It waits. -/
  | held (h : holds i.opcode s = true) : ExecCase i s s
  /-- It raises an error, or in ERROR is discarded. -/
  | rejected (code : ErrorCode) (q : Nat) (hc : code ≠ .none) (hd : code = .device → s.cfg.deviceFaults = true) :
      ExecCase i s (s.reject code i.word q)
  /-- It only answers. -/
  | answered (r : List Word) : ExecCase i s (s.answered r)
  /-- It writes HDR. -/
  | wroteHdr (k : Nat) (ws : List Word) (hr : s.ready) : ExecCase i s (State.answered { s with hdr := memWrite s.hdr k ws } [])
  /-- It writes TGT. -/
  | wroteTgt (k : Nat) (ws : List Word) (hr : s.ready) : ExecCase i s (State.answered { s with tgt := memWrite s.tgt k ws } [])
  /-- It writes BASE. -/
  | wroteBase (w : Word) (hr : s.ready) : ExecCase i s (State.answered { s with base := Cell.of w } [])
  /-- It starts a dispatch. -/
  | accepted (lc : Word) (hr : s.ready) (hc : lc.toNat ≤ s.cfg.capacity) (hin : s.inputsWritten = true) :
      ExecCase i s ((s.acceptDispatch (cellWords (s.messageCells 0)) lc).answered [])
  /-- It resets the block. -/
  | reset (hi : i.opcode = .reset) (h : s.inflight = false) : ExecCase i s (s.applyReset.answered [])

/-- A state that is neither BUSY nor ERROR is ready. -/
theorem ready_of {s : State} (h1 : s.state ≠ .error) (h2 : s.state ≠ .busy) : s.ready := by
  unfold State.ready; cases hs : s.state <;> simp_all

/-- What is known when a writing command runs. -/
theorem ready_of_runs {op : Opcode} {s : State} (he : executesInError op = false) (hb : refusedWhileBusy op = true)
    (h1 : s.state = .error → executesInError op = true) (h2 : s.state = .busy → refusedWhileBusy op = false) :
    s.ready :=
  ready_of (fun h => by simp_all) (fun h => by simp_all)

/-- A guarded command answers by its guards or by its own effect. -/
theorem guarded_next {i : Instr} {s t : State} {run : Result} (h : guarded i s run = .next t)
    (hrun : run = .next t → (s.state = .error → executesInError i.opcode = true) →
      (s.state = .busy → refusedWhileBusy i.opcode = false) → holds i.opcode s = false → ExecCase i s t) :
    ExecCase i s t := by
  rcases guarded_cases i s run with ⟨c, q, hn, hd, hc⟩ | ⟨hh, hc⟩ | ⟨hc, h1, _, _, h2, h3⟩
  · rw [hc] at h; cases h; exact .rejected c q hn (fun h => absurd h hd)
  · rw [hc] at h; cases h; exact .held hh
  · rw [hc] at h; exact hrun h h1 h2 h3

/-- Everything an instruction can do when it answers a next state. -/
theorem exec_cases {i : Instr} {s t : State} (h : exec i s = .next t) : ExecCase i s t := by
  cases i with
  | nop p => exact guarded_next h fun h _ _ _ => by cases h; exact .answered []
  | hdrUpload p =>
    exact guarded_next h fun h h1 h2 _ => by cases h; exact .wroteHdr 0 p (ready_of_runs rfl rfl h1 h2)
  | hdrWrite w p =>
    exact guarded_next h fun h h1 h2 _ => by cases h; exact .wroteHdr w.toNat _ (ready_of_runs rfl rfl h1 h2)
  | hdrRead w p =>
    exact guarded_next h fun h _ _ _ => by obtain ⟨_, h⟩ := readWords_next h; cases h; exact .answered _
  | tgtWrite k p =>
    exact guarded_next h fun h h1 h2 _ => by cases h; exact .wroteTgt k.toNat _ (ready_of_runs rfl rfl h1 h2)
  | tgtUpload p =>
    exact guarded_next h fun h h1 h2 _ => by cases h; exact .wroteTgt 0 p (ready_of_runs rfl rfl h1 h2)
  | baseWrite p =>
    exact guarded_next h fun h h1 h2 _ => by cases h; exact .wroteBase _ (ready_of_runs rfl rfl h1 h2)
  | dispatch p =>
    refine guarded_next h fun h h1 h2 _ => ?_
    split at h
    · cases h; exact .rejected _ _ nofun nofun
    · rename_i hlc
      obtain ⟨ha, h⟩ := readWords_next h
      obtain ⟨hb, h⟩ := readWords_next h
      obtain ⟨hc, h⟩ := readWords_next h
      cases h
      refine .accepted _ (ready_of_runs rfl rfl h1 h2) (by omega) ?_
      simp only [allWritten, List.all_cons, List.all_nil, Bool.and_true] at hc
      rw [State.inputsWritten, ha, hb, hc]; rfl
  | readback p =>
    refine guarded_next h fun h _ _ _ => ?_
    split at h
    · rename_i hf
      cases h; exact .rejected _ _ nofun (fun _ => by simp [State.deviceFails] at hf; exact hf.1)
    · obtain ⟨_, h⟩ := readWords_next h; cases h; exact .answered _
  | templateLoad p =>
    exact guarded_next h fun h h1 h2 _ => by cases h; exact .wroteHdr 0 _ (ready_of_runs rfl rfl h1 h2)
  | hdrDecode p =>
    exact guarded_next h fun h _ _ _ => by obtain ⟨_, h⟩ := readWords_next h; cases h; exact .answered _
  | hash p =>
    refine guarded_next h fun h _ _ _ => ?_
    obtain ⟨_, h⟩ := readWords_next h
    obtain ⟨_, h⟩ := readWords_next h
    split at h
    · rename_i hf
      cases h; exact .rejected _ _ nofun (fun _ => by simp [State.deviceFails] at hf; exact hf.1)
    · cases h; exact .answered _
  | statusRead p => exact guarded_next h fun h _ _ _ => by cases h; exact .answered _
  | infoRead k p =>
    exact guarded_next h fun h _ _ _ => by obtain ⟨_, h⟩ := readWords_next h; cases h; exact .answered _
  | reset p => exact guarded_next h fun h _ _ h3 => by cases h; exact .reset rfl h3

/-- The next states of a step. -/
inductive StepCase (s : State) : State → Prop where
  /-- The block waits for its host. -/
  | idle (h : s.scheduled = none) : StepCase s s
  /-- The command unit runs a legal command. -/
  | ran (t : Transaction) (i : Instr) (s' : State) (hq : s.queue.head? = some t) (hd : decode t.cmd t.payload = .ok i)
      (hh : s.headHolds = false) (hx : exec i s = .next s')
      (hp : s.inflight = true → s.patience ≠ 0) : StepCase s (s'.redraw .commandUnit)
  /-- The command unit takes an illegal word. -/
  | illegal (t : Transaction) (e : DecodeError) (hq : s.queue.head? = some t) (hd : decode t.cmd t.payload = .error e)
      (hp : s.inflight = true → s.patience ≠ 0) : StepCase s ((s.takeIllegal t.cmd).redraw .commandUnit)
  /-- A lane goes on. -/
  | laneRan (k : Nat) (l l' : Lane) (hf : s.inflight = true) (hk : s.lanes[k]? = some l) (hl : laneTurn l = .running l') :
      StepCase s (State.redraw (.lane k) { s with lanes := s.lanes.set k l' })
  /-- A lane writes its slot and ends. -/
  | laneEnded (k : Nat) (l : Lane) (d : HashState) (hf : s.inflight = true) (hk : s.lanes[k]? = some l)
      (hl : laneTurn l = .finished d) :
      StepCase s (State.redraw (.lane k) { s with lanes := s.lanes.eraseIdx k, out := s.writeSlot l d })
  /-- Completion fires. -/
  | completed (hf : s.inflight = true) (hl : s.lanes = []) :
      StepCase s (State.redraw .completion
        { s with inflight := false, state := if s.state = .busy then .done else s.state })
  /-- The dispatch fails. -/
  | failed (hf : s.inflight = true) (hd : s.cfg.deviceFaults = true) :
      StepCase s (State.redraw .deviceFailure (State.enterError
        { s with inflight := false, lanes := [], out := failedOut s.draws s.cfg.capacity } .device dispatchWord))

/-- The agent picked is one of those that can move. -/
theorem pickAgent_mem {turn : Nat} {as : List Agent} {a : Agent} (h : pickAgent turn as = some a) : a ∈ as := by
  match as, h with
  | [b], h => cases h; simp
  | b :: c :: cs, h =>
    simp only [pickAgent, Option.some.injEq] at h
    subst h
    rw [List.getD_eq_getElem _ _ (Nat.mod_lt _ (by simp))]
    exact List.getElem_mem _

/-- An agent is picked when one can move. -/
theorem pickAgent_none {turn : Nat} {as : List Agent} (h : pickAgent turn as = none) : as = [] := by
  match as, h with
  | [], _ => rfl
  | _ :: _ :: _, h => simp [pickAgent] at h

/-- When the command unit may move. -/
theorem commandUnitMoves_iff (s : State) :
    s.commandUnitMoves = true ↔ s.queue ≠ [] ∧ s.headHolds = false ∧ (s.inflight = true → s.patience ≠ 0) := by
  cases hf : s.inflight <;> simp [State.commandUnitMoves, hf, and_assoc]

/-- The command unit moves only with a command that is not held, and with patience left while a dispatch is in flight. -/
theorem scheduled_commandUnit {s : State} (h : s.scheduled = some .commandUnit) :
    s.queue ≠ [] ∧ s.headHolds = false ∧ (s.inflight = true → s.patience ≠ 0) := by
  have := pickAgent_mem h
  simp only [State.enabledAgents, List.mem_append] at this
  rcases this with h | h
  · split at h
    · exact (commandUnitMoves_iff s).1 ‹_›
    · simp at h
  · split at h <;> simp at h

/-- A lane moves only in a dispatch in flight. -/
theorem scheduled_lane {s : State} {k : Nat} (h : s.scheduled = some (.lane k)) : s.inflight = true ∧ k < s.lanes.length := by
  have := pickAgent_mem h
  simp only [State.enabledAgents, List.mem_append] at this
  rcases this with h | h
  · split at h <;> simp at h
  · split at h
    · refine ⟨‹_›, ?_⟩
      simp only [List.mem_append, List.mem_map, List.mem_range] at h
      rcases h with (⟨j, hj, he⟩ | h) | h
      · cases he; exact hj
      · split at h <;> simp at h
      · split at h <;> simp at h
    · simp at h

/-- Completion fires only when a dispatch in flight has no lane left. -/
theorem scheduled_completion {s : State} (h : s.scheduled = some .completion) : s.inflight = true ∧ s.lanes = [] := by
  have := pickAgent_mem h
  simp only [State.enabledAgents, List.mem_append] at this
  rcases this with h | h
  · split at h <;> simp at h
  · split at h
    · refine ⟨‹_›, ?_⟩
      simp only [List.mem_append, List.mem_map, List.mem_range] at h
      rcases h with (⟨j, hj, he⟩ | h) | h
      · cases he
      · split at h
        · assumption
        · simp at h
      · split at h <;> simp at h
    · simp at h

/-- A failure needs a dispatch in flight and DEVICE_FAULTS. -/
theorem scheduled_failure {s : State} (h : s.scheduled = some .deviceFailure) :
    s.inflight = true ∧ s.cfg.deviceFaults = true := by
  have := pickAgent_mem h
  simp only [State.enabledAgents, List.mem_append] at this
  rcases this with h | h
  · split at h <;> simp at h
  · split at h
    · refine ⟨‹_›, ?_⟩
      simp only [List.mem_append, List.mem_map, List.mem_range] at h
      rcases h with (⟨j, hj, he⟩ | h) | h
      · cases he
      · split at h <;> simp at h
      · split at h
        · assumption
        · simp at h
    · simp at h

/-- Everything a step can do when it answers a next state. -/
theorem step_cases {s t : State} (h : step s = .next t) : StepCase s t := by
  unfold step at h
  cases hs : s.scheduled with
  | none => rw [hs] at h; cases h; exact .idle hs
  | some a =>
    rw [hs] at h
    cases a with
    | commandUnit =>
      obtain ⟨hq, hh, hp⟩ := scheduled_commandUnit hs
      simp only [agentTurn, commandUnitTurn] at h
      cases hl : s.queue with
      | nil => exact absurd hl hq
      | cons u us =>
        simp only [hl] at h
        cases hd : decode u.cmd u.payload with
        | error e => rw [hd] at h; cases h; exact .illegal u e (by simp [hl]) hd hp
        | ok i =>
          simp only [hd] at h
          cases hx : exec i s with
          | next s' => rw [hx] at h; cases h; exact .ran u i s' (by simp [hl]) hd hh hx hp
          | fault e => rw [hx] at h; cases h
          | refused r => rw [hx] at h; cases h
    | lane k =>
      obtain ⟨hf, hk⟩ := scheduled_lane hs
      simp only [agentTurn, State.turnOfLane, List.getElem?_eq_getElem hk] at h
      cases hl : laneTurn s.lanes[k] with
      | running l' => rw [hl] at h; cases h; exact .laneRan k _ l' hf (List.getElem?_eq_getElem hk) hl
      | finished d => rw [hl] at h; cases h; exact .laneEnded k _ d hf (List.getElem?_eq_getElem hk) hl
    | completion =>
      obtain ⟨hf, hl⟩ := scheduled_completion hs
      simp only [agentTurn, State.turnOfCompletion, hf, hl, and_self, if_true] at h
      cases h
      simpa [hf, hl] using StepCase.completed (s := s) hf hl
    | deviceFailure =>
      obtain ⟨hf, hd⟩ := scheduled_failure hs
      simp only [agentTurn, State.turnOfFailure, hf, hd, and_self, if_true] at h
      cases h
      simpa [hf, hd] using StepCase.failed (s := s) hf hd

end Sys2Proof.Machine
end

