-- ==== Sys2Proof/Laws/Kernel.lean ====
section
/-! SUPPORT. The small laws of the kernel and of a lane's turn (spec/41_hash_kernel.md R109 to R115, spec/43_search_engine.md
R174 to R176). -/

namespace Sys2Proof.Machine

@[simp] theorem scheduleUpTo_length (b : List Word) (k : Nat) : (scheduleUpTo b k).length = b.length + k := by
  induction k with
  | zero => rfl
  | succ k ih => simp only [scheduleUpTo, List.length_append, List.length_cons, List.length_nil, ih]; omega

/-- A block of 16 words gives a schedule of 64. -/
theorem schedule_length (b : List Word) (h : b.length = 16) : (schedule b).length = 64 := by
  rw [schedule, scheduleUpTo_length, h]

@[simp] theorem hashWords_length (h : HashState) : (hashWords h).length = 8 := rfl

@[simp] theorem padDigest_length (d : HashState) : (padDigest d).length = 16 := rfl

@[simp] theorem view_length (o : DigestOrder) (h : HashState) : (view o h).length = 8 := by
  cases o <;> simp [view]

/-- What a lane's turn can do: a round, the next compression, or the digest. -/
theorem laneTurn_cases (l : Lane) :
    (l.round < 64 ∧ laneTurn l = .running (laneRound l)) ∨
    (64 ≤ l.round ∧ l.compression = .headerFirst ∧
      laneTurn l = .running (enterCompression l .headerSecond (feedForward l.chain l.work))) ∨
    (64 ≤ l.round ∧ l.compression = .headerSecond ∧
      laneTurn l = .running (enterCompression l .digest (feedForward l.chain l.work))) ∨
    (64 ≤ l.round ∧ l.compression = .digest ∧ laneTurn l = .finished (feedForward l.chain l.work)) := by
  unfold laneTurn
  split
  · exact .inl ⟨‹_›, rfl⟩
  · have h : 64 ≤ l.round := by omega
    cases hc : l.compression <;> simp_all

/-- A turn keeps the lane's index, nonce and message. -/
theorem laneTurn_keeps {l l' : Lane} (h : laneTurn l = .running l') :
    l'.index = l.index ∧ l'.nonce = l.nonce ∧ l'.message = l.message := by
  rcases laneTurn_cases l with ⟨_, e⟩ | ⟨_, _, e⟩ | ⟨_, _, e⟩ | ⟨_, _, e⟩ <;> rw [e] at h <;> cases h <;>
    exact ⟨rfl, rfl, rfl⟩

@[simp] theorem startLane_index (h : List Word) (b : Word) (i : Nat) : (startLane h b i).index = i := rfl
@[simp] theorem startLane_nonce (h : List Word) (b : Word) (i : Nat) : (startLane h b i).nonce = laneNonce b i := rfl
@[simp] theorem startLane_message (h : List Word) (b : Word) (i : Nat) :
    (startLane h b i).message = withNonce h (laneNonce b i) := rfl

end Sys2Proof.Machine
end

