-- ==== Sys2Proof/Laws/Exec.lean ====
section
/-! SUPPORT. The command word of each constructor, and how exec passes through the checks of `guarded`. -/

namespace Sys2Proof.Machine

/-! ### Command words (spec/30_encoding.md R75) -/

@[simp] theorem word_nop (p : List Word) : Instr.word (.nop p) = 0x00000000 := by
  simp only [Instr.word, Instr.opcode, Opcode.code, Instr.idx]; decide
@[simp] theorem word_hdrUpload (p : List Word) : Instr.word (.hdrUpload p) = 0x01000000 := by
  simp only [Instr.word, Instr.opcode, Opcode.code, Instr.idx]; decide
@[simp] theorem word_hdrWrite (w : BitVec 5) (p : List Word) : Instr.word (.hdrWrite w p) = 0x02000000 ||| w.setWidth 32 := by
  simp only [Instr.word, Instr.opcode, Opcode.code, Instr.idx]; revert w; decide
@[simp] theorem word_hdrRead (w : BitVec 5) (p : List Word) : Instr.word (.hdrRead w p) = 0x03000000 ||| w.setWidth 32 := by
  simp only [Instr.word, Instr.opcode, Opcode.code, Instr.idx]; revert w; decide
@[simp] theorem word_tgtWrite (k : BitVec 3) (p : List Word) : Instr.word (.tgtWrite k p) = 0x04000000 ||| k.setWidth 32 := by
  simp only [Instr.word, Instr.opcode, Opcode.code, Instr.idx]; revert k; decide
@[simp] theorem word_tgtUpload (p : List Word) : Instr.word (.tgtUpload p) = 0x05000000 := by
  simp only [Instr.word, Instr.opcode, Opcode.code, Instr.idx]; decide
@[simp] theorem word_baseWrite (p : List Word) : Instr.word (.baseWrite p) = 0x06000000 := by
  simp only [Instr.word, Instr.opcode, Opcode.code, Instr.idx]; decide
@[simp] theorem word_dispatch (p : List Word) : Instr.word (.dispatch p) = 0x07000000 := by
  simp only [Instr.word, Instr.opcode, Opcode.code, Instr.idx]; decide
@[simp] theorem word_readback (p : List Word) : Instr.word (.readback p) = 0x08000000 := by
  simp only [Instr.word, Instr.opcode, Opcode.code, Instr.idx]; decide
@[simp] theorem word_templateLoad (p : List Word) : Instr.word (.templateLoad p) = 0x09000000 := by
  simp only [Instr.word, Instr.opcode, Opcode.code, Instr.idx]; decide
@[simp] theorem word_hdrDecode (p : List Word) : Instr.word (.hdrDecode p) = 0x0A000000 := by
  simp only [Instr.word, Instr.opcode, Opcode.code, Instr.idx]; decide
@[simp] theorem word_hash (p : List Word) : Instr.word (.hash p) = 0x0B000000 := by
  simp only [Instr.word, Instr.opcode, Opcode.code, Instr.idx]; decide
@[simp] theorem word_statusRead (p : List Word) : Instr.word (.statusRead p) = 0x0C000000 := by
  simp only [Instr.word, Instr.opcode, Opcode.code, Instr.idx]; decide
@[simp] theorem word_infoRead (k : BitVec 4) (p : List Word) : Instr.word (.infoRead k p) = 0x0D000000 ||| k.setWidth 32 := by
  simp only [Instr.word, Instr.opcode, Opcode.code, Instr.idx]; revert k; decide
@[simp] theorem word_reset (p : List Word) : Instr.word (.reset p) = 0x0E000000 := by
  simp only [Instr.word, Instr.opcode, Opcode.code, Instr.idx]; decide

/-! ### The checks -/

/-- Every arm of exec is a command behind the same checks (spec/60_exceptions.md R253). -/
theorem exec_guarded (i : Instr) (s : State) : ∃ run, exec i s = guarded i s run := by
  cases i <;> exact ⟨_, rfl⟩

/-- In IDLE and DONE a well-formed command that does not wait for a dispatch in flight runs. -/
theorem guarded_ready {i : Instr} {s : State} (run : Result) (hr : s.ready) (hw : i.wellFormed = true)
    (hi : i.opcode ≠ .reset) : guarded i s run = run := by
  have he : s.state ≠ .error := by rcases hr with h | h <;> simp [h]
  have hb : s.state ≠ .busy := by rcases hr with h | h <;> simp [h]
  refine guarded_run run (fun h => absurd h he) hw (fun h => absurd h hb) ?_
  cases ho : i.opcode <;> simp_all [holds]

end Sys2Proof.Machine
end

