-- ==== Sys2Proof/Laws/PerInstr.lean ====
section
/-! SUPPORT. The per-instruction family WordFields: in the command word of every instruction OP is the opcode's number and
RSV is zero (spec/30_encoding.md R71, R72, R75). -/

namespace Sys2Proof.Laws.WordFields

/-- The fields of an instruction's command word. -/
def Statement (i : Instr) : Prop :=
  opField (encode i).cmd = i.opcode.code ∧ rsvField (encode i).cmd = 0 ∧ idxField (encode i).cmd = i.idx

/-- The three fields of a word put together are the fields it was put together of. -/
theorem fields_append (a : BitVec 8) (b : BitVec 16) (c : BitVec 8) :
    opField (a ++ b ++ c) = a ∧ rsvField (a ++ b ++ c) = b ∧ idxField (a ++ b ++ c) = c := by
  refine ⟨?_, ?_, ?_⟩ <;>
  · apply BitVec.eq_of_getLsbD_eq
    intro i hi
    simp only [opField, rsvField, idxField, BitVec.getLsbD_append, BitVec.getLsbD_extractLsb']
    interval_cases i <;> simp

/-- Every instruction's word has its fields. -/
theorem all (i : Instr) : Statement i := fields_append i.opcode.code 0 i.idx

theorem nop (p : List Word) : Statement (.nop p) := all _
theorem hdrUpload (p : List Word) : Statement (.hdrUpload p) := all _
theorem hdrWrite (w : BitVec 5) (p : List Word) : Statement (.hdrWrite w p) := all _
theorem hdrRead (w : BitVec 5) (p : List Word) : Statement (.hdrRead w p) := all _
theorem tgtWrite (k : BitVec 3) (p : List Word) : Statement (.tgtWrite k p) := all _
theorem tgtUpload (p : List Word) : Statement (.tgtUpload p) := all _
theorem baseWrite (p : List Word) : Statement (.baseWrite p) := all _
theorem dispatch (p : List Word) : Statement (.dispatch p) := all _
theorem readback (p : List Word) : Statement (.readback p) := all _
theorem templateLoad (p : List Word) : Statement (.templateLoad p) := all _
theorem hdrDecode (p : List Word) : Statement (.hdrDecode p) := all _
theorem hash (p : List Word) : Statement (.hash p) := all _
theorem statusRead (p : List Word) : Statement (.statusRead p) := all _
theorem infoRead (k : BitVec 4) (p : List Word) : Statement (.infoRead k p) := all _
theorem reset (p : List Word) : Statement (.reset p) := all _

end Sys2Proof.Laws.WordFields
end

