-- ==== Sys2Proof/Laws/Progress.lean ====
section
/-! SUPPORT. Every step of a dispatch in flight makes progress, and the host's issuing undoes none of it
(spec/43_search_engine.md R177, spec/70_reset_and_hazards.md R297). -/

namespace Sys2Proof.Machine

/-- A lane left has a turn left. -/
theorem laneWork_pos (l : Lane) : 0 < laneWork l := by
  simp only [laneWork]; split <;> omega

/-- A turn that does not end a lane leaves it less work. -/
theorem laneWork_turn {l l' : Lane} (h : laneTurn l = .running l') : laneWork l' < laneWork l := by
  rcases laneTurn_cases l with ⟨hr, e⟩ | ⟨_, hc, e⟩ | ⟨_, hc, e⟩ | ⟨_, _, e⟩ <;> rw [e] at h <;> cases h
  · simp only [laneWork, laneRound]; split <;> omega
  · simp only [laneWork, enterCompression, hc]; omega
  · simp only [laneWork, enterCompression, hc]; omega

/-- The work of lanes of which one has less to do. -/
theorem laneWork_sum_set {ls : List Lane} {k : Nat} {l l' : Lane} (hk : ls[k]? = some l) (h : laneWork l' < laneWork l) :
    ((ls.set k l').map laneWork).sum < (ls.map laneWork).sum := by
  induction ls generalizing k with
  | nil => simp at hk
  | cons x xs ih =>
    cases k with
    | zero => cases hk; simpa using h
    | succ k => simpa using ih hk

/-- The work of lanes of which one is gone. -/
theorem laneWork_sum_eraseIdx {ls : List Lane} {k : Nat} {l : Lane} (hk : ls[k]? = some l) :
    ((ls.eraseIdx k).map laneWork).sum < (ls.map laneWork).sum := by
  induction ls generalizing k with
  | nil => simp at hk
  | cons x xs ih =>
    cases k with
    | zero => have := laneWork_pos x; simpa using this
    | succ k => simpa using ih hk

/-- What the host issues leaves everything but the queue alone. -/
theorem issued_fields (ts : List Transaction) (s : State) :
    (ts.foldl State.issue s).inflight = s.inflight ∧ (ts.foldl State.issue s).state = s.state ∧
    (ts.foldl State.issue s).remainingWork = s.remainingWork ∧ (ts.foldl State.issue s).patience = s.patience ∧
    (ts.foldl State.issue s).queue = s.queue ++ ts := by
  induction ts generalizing s with
  | nil => simp
  | cons t ts ih =>
    obtain ⟨h1, h2, h3, h4, h5⟩ := ih (s.issue t)
    exact ⟨h1, h2, h3, h4, by simpa using h5⟩

/-- In a dispatch in flight some agent moves. -/
theorem scheduled_of_inflight {s : State} (hf : s.inflight = true) : s.scheduled ≠ none := by
  intro h
  have := pickAgent_none h
  cases hl : s.lanes <;> simp [State.enabledAgents, hf, hl, List.range_succ_eq_map] at this

/-- A step of a dispatch in flight ends it, or leaves it less work, or uses up the command unit's patience. -/
theorem step_progress {s t : State} (hf : s.inflight = true) (hs : s.state = .busy ∨ s.state = .error)
    (h : step s = .next t) :
    t.inflight = false ∨ t.remainingWork < s.remainingWork ∨
    (t.remainingWork = s.remainingWork ∧ t.patience < s.patience) := by
  have hr : ¬ s.ready := by rintro (hr | hr) <;> rcases hs with hs | hs <;> rw [hs] at hr <;> cases hr
  rcases step_cases h with hn | ⟨_, i, s', _, _, _, hx, hp⟩ | ⟨u, _, _, _, hp⟩ | ⟨k, l, l', _, hk, hl⟩ | ⟨k, l, d, _, hk, hl⟩ |
    ⟨_, _⟩ | ⟨_, _⟩
  · exact absurd hn (scheduled_of_inflight hf)
  · have := hp hf
    rcases exec_cases hx with _ | ⟨c, q, _, _⟩ | _ | ⟨_, _, he⟩ | ⟨_, _, he⟩ | ⟨_, he⟩ | ⟨_, he⟩ | ⟨_, he⟩
    · right; right; simp [State.remainingWork, hf]; omega
    · right; right; simp [State.remainingWork, hf]; omega
    · right; right; simp [State.remainingWork, hf]; omega
    iterate 4 exact absurd he hr
    · rw [hf] at he; cases he
  · have := hp hf
    right; right; simp [State.remainingWork, State.takeIllegal, hf]; omega
  · right; left
    simpa [State.remainingWork, hf] using laneWork_sum_set hk (laneWork_turn hl)
  · right; left
    simpa [State.remainingWork, hf] using laneWork_sum_eraseIdx hk
  · left; simp
  · left; simp

end Sys2Proof.Machine
end

