-- ==== Sys2Proof/Machine/Assembler.lean ====
section
/-! DEFINITION. The assembler syntax of spec/30_encoding.md R78: one transaction a line, `MNEMONIC [idx] [, p0, p1, ...]`,
then the expected response after `=>`, then a comment after `;`. It is a notation for transactions: no step reads it. -/

namespace Sys2Proof.Machine

/-- The mnemonics of spec/30_encoding.md R75. -/
def mnemonic : Opcode → String
  | .nop => "NOP"
  | .hdrUpload => "HDR_UPLOAD"
  | .hdrWrite => "HDR_WRITE"
  | .hdrRead => "HDR_READ"
  | .tgtWrite => "TGT_WRITE"
  | .tgtUpload => "TGT_UPLOAD"
  | .baseWrite => "BASE_WRITE"
  | .dispatch => "DISPATCH"
  | .readback => "READBACK"
  | .templateLoad => "TEMPLATE_LOAD"
  | .hdrDecode => "HDR_DECODE"
  | .hash => "HASH"
  | .statusRead => "STATUS_READ"
  | .infoRead => "INFO_READ"
  | .reset => "RESET"

/-- Every opcode, in the table's order. -/
def allOpcodes : List Opcode :=
  [.nop, .hdrUpload, .hdrWrite, .hdrRead, .tgtWrite, .tgtUpload, .baseWrite, .dispatch, .readback, .templateLoad,
   .hdrDecode, .hash, .statusRead, .infoRead, .reset]

/-- The commands written with an index (spec/30_encoding.md R78). -/
def takesIndex : Opcode → Bool
  | .hdrWrite => true
  | .hdrRead => true
  | .tgtWrite => true
  | .infoRead => true
  | .nop => false
  | .hdrUpload => false
  | .tgtUpload => false
  | .baseWrite => false
  | .dispatch => false
  | .readback => false
  | .templateLoad => false
  | .hdrDecode => false
  | .hash => false
  | .statusRead => false
  | .reset => false

/-- The command word with opcode `op` and IDX `idx` (spec/30_encoding.md R71), legal or not. -/
def commandWord (op : Opcode) (idx : BitVec 8) : Word := op.code ++ (0 : BitVec 16) ++ idx

/-- Fields separated by spaces and commas; `current` is the field being read, last character first. -/
def fields (current : List Char) : List Char → List (List Char)
  | [] => if current = [] then [] else [current.reverse]
  | c :: cs =>
    if c = ' ' ∨ c = ',' then
      (if current = [] then fields [] cs else current.reverse :: fields [] cs)
    else fields (c :: current) cs

/-- The value of a digit in base 16, either case. -/
def digitValue (c : Char) : Option Nat :=
  if '0' ≤ c ∧ c ≤ '9' then some (c.toNat - 48)
  else if 'a' ≤ c ∧ c ≤ 'f' then some (c.toNat - 87)
  else if 'A' ≤ c ∧ c ≤ 'F' then some (c.toNat - 55)
  else none

/-- Digits in a base, most significant first, after a value already read. -/
def digits (base acc : Nat) : List Char → Option Nat
  | [] => some acc
  | c :: cs =>
    match digitValue c with
    | some d => if d < base then digits base (acc * base + d) cs else none
    | none => none

/-- A number: decimal, or hexadecimal after `0x` (spec/30_encoding.md R78). -/
def number : List Char → Option Nat
  | [] => none
  | '0' :: 'x' :: c :: cs => digits 16 0 (c :: cs)
  | cs => digits 10 0 cs

/-- A list of numbers below a bound. -/
def numbers (bound : Nat) : List (List Char) → Option (List Nat)
  | [] => some []
  | f :: fs =>
    match number f, numbers bound fs with
    | some n, some ns => if n < bound then some (n :: ns) else none
    | _, _ => none

/-- The transaction of a mnemonic's opcode and the numbers after it: the index first where the command takes one, then the
payload (spec/30_encoding.md R78). -/
def assembleFields (op : Opcode) (args : List Nat) : Option Transaction :=
  if takesIndex op = true then
    match args with
    | [] => none
    | i :: ps =>
      if i < 256 then some ⟨commandWord op (BitVec.ofNat 8 i), ps.map (BitVec.ofNat 32)⟩ else none
  else some ⟨commandWord op 0, args.map (BitVec.ofNat 32)⟩

/-- One line of assembler text: the transaction, and the response words written after `=>` (none where there are none). -/
def assembleLine (line : List Char) : Option (Transaction × List Word) :=
  match fields [] (line.takeWhile (fun c => decide (c ≠ ';'))) with
  | [] => none
  | m :: fs =>
    match allOpcodes.find? (fun op => decide ((mnemonic op).toList = m)) with
    | none => none
    | some op =>
      match numbers 4294967296 (fs.takeWhile (fun f => decide (f ≠ ['=', '>']))),
            numbers 4294967296 ((fs.dropWhile (fun f => decide (f ≠ ['=', '>']))).drop 1) with
      | some args, some response =>
        match assembleFields op args with
        | some t => some (t, response.map (BitVec.ofNat 32))
        | none => none
      | _, _ => none

end Sys2Proof.Machine
end

