-- ==== Sys2Proof/Tests/Slice0.lean ====
section
/-! SUPPORT. Tests of the model against the vectors of spec/95_test_vectors.md and the tables of spec/, and for every statement
with hypotheses a concrete case that meets them. -/

namespace Sys2Proof.Tests

open Sys2Proof Sys2Proof.Machine

/-! ### Small states -/

/-- A block with four slots that never fails. -/
def cfg4 : Config := ⟨4, 64, .btc, false, 0x44534832⟩

/-- Z of spec/95_test_vectors.md: the all-zero header and its padding. -/
def zeroHeader : List Word := List.replicate 20 0 ++ [0x80000000] ++ List.replicate 10 0 ++ [0x00000280]

/-- The hash fields of GEN of spec/95_test_vectors.md, as bus words 1 to 16. -/
def genesisHashes : List Word :=
  List.replicate 8 0 ++
  [0x3BA3EDFD, 0x7A7B12B2, 0x7AC72C3E, 0x67768F61, 0x7FC81BC3, 0x888A5132, 0x3A9FB8AA, 0x4B1E5E4A]

/-- GEN of spec/95_test_vectors.md. -/
def genesisPayload : List Word := [0x00000001] ++ genesisHashes ++ [0x495FAB29, 0x1D00FFFF, 0x1DAC2B7C]

/-- The header words of V-K2. -/
def genesisHeader : List Word :=
  [0x01000000] ++ genesisHashes ++ [0x29AB5F49, 0xFFFF001D, 0x1DAC2B7C, 0x80000000] ++ List.replicate 10 0 ++ [0x00000280]

/-- S of V-K2. -/
def genesisDigest : HashState :=
  ⟨0x6FE28C0A, 0xB6F1B372, 0xC1A6A246, 0xAE63F74F, 0x931E8365, 0xE15A089C, 0x68D61900, 0x00000000⟩

/-- VIEW(S) of V-K2. -/
def genesisView : List Word :=
  [0x00000000, 0x0019D668, 0x9C085AE1, 0x65831E93, 0x4FF763AE, 0x46A2A6C1, 0x72B3F1B6, 0x0A8CE26F]

/-- TG of spec/95_test_vectors.md. -/
def genesisTarget : List Word := [0x00000000, 0xFFFF0000, 0, 0, 0, 0, 0, 0]

/-- Reset state of the small block. -/
def blank : State := State.resetOf cfg4

/-- The genesis header, TG and a base loaded; nothing dispatched. -/
def loaded : State :=
  { blank with hdr := genesisHeader.map Cell.of, tgt := genesisTarget.map Cell.of, base := Cell.of 0x1DAC2B7C }

/-- A dispatch of two lanes in flight. -/
def busy : State := loaded.acceptDispatch (cellWords (loaded.messageCells 0)) 2

/-- A dispatch is over. -/
def done : State := { loaded with state := .done, lc := 1, out := [0x1DAC2B7C, 0, 0, 0].map Cell.of }

/-- TGT_UPLOAD was refused for its payload (V-X4). -/
def inError : State := { loaded with state := .error, errcode := .payload, errcmd := 0x05000000 }

/-- A state with one transaction in the queue. -/
def sending (s : State) (cmd : Word) (payload : List Word) : State := { s with queue := [⟨cmd, payload⟩] }

/-- A part of the next state, where there is one. -/
def after {α : Type} (f : State → α) : Result → Option α
  | .next s => some (f s)
  | _ => none

/-- Whether the step stopped with MODEL_UNWRITTEN_READ. -/
def unwritten : Result → Bool
  | .fault .modelUnwrittenRead => true
  | _ => false

/-! ### Well-formedness -/

theorem test_wf_accepts : (Instr.hdrWrite 31 [5]).wellFormed = true := by decide
theorem test_wf_refuses_payload_too_long : (Instr.hdrWrite 31 [5, 6]).wellFormed = false := by decide
theorem test_wf_refuses_payload_too_short : (Instr.tgtUpload [1, 2, 3]).wellFormed = false := by decide
theorem test_wf_refuses_info_index_7 : (Instr.infoRead 7 []).wellFormed = false := by decide

/-! ### Decoding: words written out from spec/30_encoding.md R75, operand bits all ones where there are any -/

theorem test_decode_nop : decode 0b00000000000000000000000000000000 [] = .ok (.nop []) := by decide
theorem test_decode_hdrUpload : decode 0b00000001000000000000000000000000 [1] = .ok (.hdrUpload [1]) := by decide
theorem test_decode_hdrWrite : decode 0b00000010000000000000000000011111 [1] = .ok (.hdrWrite 31 [1]) := by decide
theorem test_decode_hdrRead : decode 0b00000011000000000000000000011111 [] = .ok (.hdrRead 31 []) := by decide
theorem test_decode_tgtWrite : decode 0b00000100000000000000000000000111 [1] = .ok (.tgtWrite 7 [1]) := by decide
theorem test_decode_tgtUpload : decode 0b00000101000000000000000000000000 [1] = .ok (.tgtUpload [1]) := by decide
theorem test_decode_baseWrite : decode 0b00000110000000000000000000000000 [1] = .ok (.baseWrite [1]) := by decide
theorem test_decode_dispatch : decode 0b00000111000000000000000000000000 [1] = .ok (.dispatch [1]) := by decide
theorem test_decode_readback : decode 0b00001000000000000000000000000000 [] = .ok (.readback []) := by decide
theorem test_decode_templateLoad : decode 0b00001001000000000000000000000000 [1] = .ok (.templateLoad [1]) := by decide
theorem test_decode_hdrDecode : decode 0b00001010000000000000000000000000 [] = .ok (.hdrDecode []) := by decide
theorem test_decode_hash : decode 0b00001011000000000000000000000000 [1] = .ok (.hash [1]) := by decide
theorem test_decode_statusRead : decode 0b00001100000000000000000000000000 [] = .ok (.statusRead []) := by decide
theorem test_decode_infoRead : decode 0b00001101000000000000000000001111 [] = .ok (.infoRead 15 []) := by decide
theorem test_decode_reset : decode 0b00001110000000000000000000000000 [] = .ok (.reset []) := by decide

/-- V-X1 to V-X1e. -/
theorem test_decode_illegal :
    [0x0F000000, 0xFF000000, 0x00000100, 0x00800000, 0x02000020, 0x03000080, 0x04000008, 0x0D000007, 0x0D000010,
      0x00000001, 0x07000001].all (fun w => (decode w []).toOption.isNone) = true := by decide

/-- Operand bits each alone, so that no two are swapped. -/
theorem test_decode_index_bits :
    decode 0x02000001 [] = .ok (.hdrWrite 1 []) ∧ decode 0x03000010 [] = .ok (.hdrRead 16 []) ∧
    decode 0x04000004 [] = .ok (.tgtWrite 4 []) ∧ decode 0x0D000008 [] = .ok (.infoRead 8 []) := by decide

/-- The words of opcode_table.json. -/
theorem test_decodeTableWord :
    decodeTableWord 32 0x07000000 = some (.dispatch [0]) ∧ decodeTableWord 32 0x0F000000 = none := by decide

/-! ### The kernel (V-K1 to V-K6) -/

theorem test_rotate : rotr 0x12345678 1 = 0x091A2B3C ∧ rotr 0x12345678 31 = 0x2468ACF0 := by decide
theorem test_ch :
    ch 0x12345678 0x9ABCDEF0 0x0FEDCBA9 = 0x1FFDDFF1 ∧ ch 0xFFFFFFFF 0x9ABCDEF0 0x0FEDCBA9 = 0x9ABCDEF0 ∧
    ch 0 0x9ABCDEF0 0x0FEDCBA9 = 0x0FEDCBA9 := by decide
theorem test_maj : maj 0x12345678 0x9ABCDEF0 0x0FEDCBA9 = 0x1ABCDEF8 := by decide
theorem test_bsig : bsig0 0x12345678 = 0x66146474 ∧ bsig1 0x12345678 = 0x3561ABDA := by decide
theorem test_ssig :
    ssig0 0x12345678 = 0xE7FCE6EE ∧ ssig0 0xFFFFFFFF = 0x1FFFFFFF ∧ ssig0 0x80000000 = 0x11002000 ∧
    ssig1 0x12345678 = 0xA1F78649 ∧ ssig1 0xFFFFFFFF = 0x003FFFFF ∧ ssig1 0x80000000 = 0x00205000 := by decide
theorem test_bswap : bswap32 0x12345678 = 0x78563412 := by decide

/-- V-K5. -/
theorem test_schedule :
    (slice (schedule (secondBlock zeroHeader)) 16 8 =
      [0x00000000, 0x01100000, 0x00000000, 0x110064AA, 0x80000000, 0x3EC40AB9, 0x00205280, 0x840409B8]) ∧
    slice (schedule (secondBlock zeroHeader)) 60 4 = [0xA7BEF534, 0x53E78211, 0x1D13A0A1, 0x6CEFF70F] := by
  decide +kernel

/-- V-K6. -/
theorem test_round :
    shaRound [0] 0 initialHash =
      ⟨0xFC08884D, 0x6A09E667, 0xBB67AE85, 0x3C6EF372, 0x98C7E2A2, 0x510E527F, 0x9B05688C, 0x1F83D9AB⟩ := by decide

/-- V-K3. -/
theorem test_compress_abc :
    compress initialHash ([0x61626380] ++ List.replicate 14 0 ++ [0x00000018]) =
      ⟨0xBA7816BF, 0x8F01CFEA, 0x414140DE, 0x5DAE2223, 0xB00361A3, 0x96177A9C, 0xB410FF61, 0xF20015AD⟩ := by
  decide +kernel

/-- V-K1: the midstate of the all-zero header. -/
theorem test_midstate_zero :
    midstate zeroHeader =
      ⟨0xDA5698BE, 0x17B9B469, 0x62335799, 0x779FBECA, 0x8CE5D491, 0xC0D26243, 0xBAFEF9EA, 0x1837A9D8⟩ := by
  decide +kernel

/-- V-K2: the digest of the genesis header. -/
theorem test_dsha256_genesis : dsha256 genesisHeader = genesisDigest := by decide +kernel

/-! ### The comparator -/

/-- V-K2. -/
theorem test_view_orders :
    view .btc genesisDigest = genesisView ∧ (view .raw genesisDigest).take 2 = [0x6FE28C0A, 0xB6F1B372] := by decide

/-- V-K2, the comparison with TG in either order. -/
theorem test_cmp_genesis :
    cmpTarget (view .btc genesisDigest) genesisTarget = true ∧
    cmpTarget (view .raw genesisDigest) genesisTarget = false := by decide

/-- V-C1 to V-C5, V-C8. -/
theorem test_cmp_cases :
    cmpTarget genesisView genesisView = true ∧
    cmpTarget ([2] ++ List.replicate 7 0) ([1] ++ List.replicate 7 0) = false ∧
    cmpTarget genesisView (genesisView.set 7 0x0A8CE26E) = false ∧
    cmpTarget (List.replicate 7 0 ++ [2]) (List.replicate 7 0 ++ [1]) = false ∧
    cmpTarget ([0, 0xFFFFFFFF] ++ List.replicate 6 0) ([1] ++ List.replicate 7 0) = true ∧
    cmpTarget (List.replicate 7 0 ++ [1]) (List.replicate 8 0) = false := by decide

/-! ### The codec -/

/-- V-H3, V-H4. -/
theorem test_encode_genesis : encodeHeader (templateOfBus genesisPayload) 0x1DAC2B7C = genesisHeader := by decide

/-- V-H5: the nonce's bytes and its wire value; V-K2: the first and last header bytes. -/
theorem test_serialize_genesis :
    (serialize (templateOfBus genesisPayload) 0x1DAC2B7C).drop 68 =
      [0x29, 0xAB, 0x5F, 0x49, 0xFF, 0xFF, 0x00, 0x1D, 0x1D, 0xAC, 0x2B, 0x7C] ∧
    wireNonce 0x1DAC2B7C = 0x7C2BAC1D := by decide

/-! ### Instructions, one step each -/

/-- spec/45_control.md R230, V-X7: NOP changes nothing, in ERROR too. -/
theorem test_nop :
    after State.responses (step (sending inError 0x00000000 [])) = some [[]] ∧
    after State.errcmd (step (sending inError 0x00000000 [])) = some 0x05000000 := by decide

/-- P1: HDR_UPLOAD Z. -/
theorem test_hdrUpload :
    after State.hdr (step (sending blank 0x01000000 zeroHeader)) = some (zeroHeader.map Cell.of) := by decide

/-- R161, the last word: only that word changes. -/
theorem test_hdrWrite_last :
    after (fun t => t.hdr.map Cell.written) (step (sending blank 0x0200001F [7])) =
      some (List.replicate 31 false ++ [true]) := by decide

/-- V-E12: E_BUSY_HAZARD. -/
theorem test_hdrWrite_busy :
    after (fun t => (t.statusWord, t.errcmd, t.inflight, t.hdr)) (exec (.hdrWrite 0 [0]) busy) =
      some (0x00000203, 0x02000000, true, busy.hdr) := by decide

/-- V-H6. -/
theorem test_hdrRead : after State.responses (step (sending loaded 0x0300001F [])) = some [[0x00000280]] := by decide

/-- 95 section 7: TGT_WRITE 1 on a zero target gives TG. -/
theorem test_tgtWrite :
    after State.tgt (step (sending { blank with tgt := List.replicate 8 (Cell.of 0) } 0x04000001 [0xFFFF0000])) =
      some (genesisTarget.map Cell.of) := by decide

/-- R163. -/
theorem test_tgtUpload :
    after State.tgt (step (sending blank 0x05000000 genesisTarget)) = some (genesisTarget.map Cell.of) := by decide

/-- V-X4: E_PAYLOAD. -/
theorem test_tgtUpload_payload :
    after (fun t => (t.statusWord, t.errcmd, t.tgt)) (step (sending blank 0x05000000 [1, 2, 3])) =
      some (0x00000503, 0x05000000, blank.tgt) := by decide

/-- R164. -/
theorem test_baseWrite :
    after State.base (step (sending blank 0x06000000 [0xFFFFFFFE])) = some (Cell.of 0xFFFFFFFE) := by decide

/-- V-E8: a dispatch of no lanes is accepted. -/
theorem test_dispatch_none :
    after (fun t => (t.state, t.out, t.lanes, t.lc)) (step (sending loaded 0x07000000 [0])) =
      some (.busy, List.replicate 4 (Cell.of 0), [], 0) := by decide

/-- V-X3 with CAP = 4, and V-E10. -/
theorem test_dispatch_stops :
    after (fun t => (t.statusWord, t.errcmd, t.lc, t.inflight)) (step (sending loaded 0x07000000 [5])) =
      some (0x00000303, 0x07000000, 0, false) ∧
    unwritten (step (sending { loaded with base := Cell.unwritten } 0x07000000 [1])) = true := by decide

/-- R180. -/
theorem test_readback :
    after State.responses (step (sending done 0x08000000 [])) = some [[0x1DAC2B7C, 0, 0, 0]] := by decide

/-- V-E11, and V-X5: discarded in ERROR with CAP zero words. -/
theorem test_readback_stops :
    unwritten (step (sending blank 0x08000000 [])) = true ∧
    after State.responses (step (sending inError 0x08000000 [])) = some [[0, 0, 0, 0]] := by decide

/-- V-H3. -/
theorem test_templateLoad :
    after State.hdr (step (sending blank 0x09000000 genesisPayload)) = some (genesisHeader.map Cell.of) := by decide

/-- V-H1. -/
theorem test_hdrDecode :
    after State.responses (step (sending loaded 0x0A000000 [])) = some [[0x00000001] ++ genesisPayload] := by decide

/-- V-K7, V-H7: a broken padding is reported and the fields still decode. -/
theorem test_hdrDecode_padding :
    after State.responses (step (sending { loaded with hdr := loaded.hdr.set 31 (Cell.of 0) } 0x0A000000 [])) =
      some [[0x00000000] ++ genesisPayload] := by decide

/-- V-K7, P2: HASH ignores HDR[19]. -/
theorem test_hash :
    after State.responses (step (sending { loaded with hdr := loaded.hdr.set 19 (Cell.of 0x12345678) } 0x0B000000 [0x1DAC2B7C])) =
      some [hashWords genesisDigest ++ [0x00000001]] := by decide +kernel

/-- V-X5. -/
theorem test_hash_discarded :
    after State.responses (step (sending inError 0x0B000000 [0])) = some [[0, 0, 0, 0, 0, 0, 0, 0, 0]] := by decide

/-- V-X4, V-X7. -/
theorem test_statusRead : after State.responses (step (sending inError 0x0C000000 [])) = some [[0x00000503]] := by decide

/-- 95 section 7, V-X7. -/
theorem test_infoRead :
    after State.responses (step (sending blank 0x0D000001 [])) = some [[0x00000004]] ∧
    after State.responses (step (sending blank 0x0D000002 [])) = some [[0x00000040]] ∧
    after State.responses (step (sending inError 0x0D000004 [])) = some [[0x05000000]] ∧
    after State.responses (step (sending loaded 0x0D000009 [])) = some [[0xFFFF0000]] := by decide

/-- 95 section 7: BASE unwritten. -/
theorem test_infoRead_unwritten : unwritten (step (sending blank 0x0D000006 [])) = true := by decide

/-- V-X8. -/
theorem test_reset :
    after (fun t => (t.statusWord, t.errcmd, t.lc)) (step (sending inError 0x0E000000 [])) = some (0, 0, 0) ∧
    after (fun t => (t.hdr, t.tgt, t.base)) (step (sending inError 0x0E000000 [])) =
      some (blank.hdr, blank.tgt, blank.base) := by decide

/-- spec/70_reset_and_hazards.md R290: RESET waits while a dispatch is in flight. -/
theorem test_reset_waits :
    after (fun t => (t.state, t.lc, t.responses)) (exec (.reset []) busy) = some (.busy, 2, []) := by decide

/-- V-X1, V-X6: an illegal word, outside ERROR and in it. -/
theorem test_illegal_word :
    after (fun t => (t.statusWord, t.errcmd, t.responses)) (step (sending blank 0x0F000000 [])) =
      some (0x00000103, 0x0F000000, [[]]) ∧
    after (fun t => (t.statusWord, t.errcmd, t.responses)) (step (sending inError 0x0F000000 [])) =
      some (0x00000503, 0x05000000, [[]]) := by decide

/-! ### Lanes, Completion, failure -/

/-- A lane about to end with the genesis digest. -/
def endingLane : Lane :=
  { startLane genesisHeader 0x1DAC2B78 4 with
    index := 3, compression := .digest, round := 64, chain := ⟨0, 0, 0, 0, 0, 0, 0, 0⟩, work := genesisDigest }

/-- V-E1: the passing lane writes its nonce to its slot and is gone. -/
theorem test_lane_writes_slot :
    (State.turnOfLane { busy with lanes := [endingLane] } 0).out =
      [Cell.of 0, Cell.of 0, Cell.of 0, Cell.of 0x1DAC2B7C] ∧
    (State.turnOfLane { busy with lanes := [endingLane] } 0).lanes = [] := by decide +kernel

/-- V-E4: nonces wrap. -/
theorem test_lane_nonce_wraps : laneNonce 0xFFFFFFFE 2 = 0 ∧ laneNonce 0xFFFFFFFE 3 = 1 := by decide

/-- R177, V-E8: Completion gives DONE; after an error STATE stays ERROR (V-E12). -/
theorem test_completion :
    (State.turnOfCompletion { busy with lanes := [] }).statusWord = 0x00000002 ∧
    (State.turnOfCompletion { inError with inflight := true }).statusWord = 0x00000503 := by decide

/-- V-X9. -/
theorem test_failure :
    (State.turnOfFailure { busy with cfg := { cfg4 with deviceFaults := true } }).statusWord = 0x00000403 ∧
    (State.turnOfFailure { busy with cfg := { cfg4 with deviceFaults := true } }).errcmd = 0x07000000 := by decide

/-! ### The host's side and the assembler -/

/-- V-E3, V-E6, V-E7. -/
theorem test_collect :
    collect [5, 6, 7, 0] 3 = some 5 ∧ collect [0, 1, 2, 0] 3 = some 1 ∧ collect [0, 0, 0, 0] 1 = none ∧
    collect [0, 0, 9, 0] 2 = none := by decide

/-- V-X3, R186: a search call that ends in E_LANES_OVER_CAP is a device error, not "no solution". -/
theorem test_search_deviceError (t : BlockTemplate) :
    searchCallResult .btc t zeroHeader genesisTarget 5 [[], [], [], [], [0, 0, 0, 0], [0x00000303]] =
      some (.deviceError 0x03) := rfl

/-- P4, R186: the transactions of a search call, in order. -/
theorem test_searchCall :
    (searchCall (encode (.hdrUpload zeroHeader)) genesisTarget 0 3).map Transaction.cmd =
      [0x01000000, 0x05000000, 0x06000000, 0x07000000, 0x08000000, 0x0C000000] := by decide

/-- R297: with a dispatch in flight and its patience used up, the command unit lets the dispatch take a turn. -/
theorem test_patience :
    (sending busy 0x0C000000 []).scheduled = some (.lane 0) ∧
    after State.patience (step (sending { busy with patience := 1 } 0x0C000000 [])) = some 0 := by decide

/-- The examples of spec/30_encoding.md R78. -/
theorem test_assembler :
    assembleLine "HDR_WRITE 19, 0x1dac2b7c".toList = some (⟨0x02000013, [0x1DAC2B7C]⟩, []) ∧
    assembleLine "DISPATCH 10000".toList = some (⟨0x07000000, [0x00002710]⟩, []) ∧
    assembleLine "INFO_READ 1 => 0x00004000 ; CAP".toList = some (⟨0x0D000001, []⟩, [0x00004000]) := by decide

/-! ### Witnesses: for every statement with hypotheses, cases that meet them together, one for each clause -/

/-- A step or a meaning answers a next state. -/
def answersNext : Result → Bool
  | .next _ => true
  | _ => false

/-- An answered next state is a next state. -/
theorem next_of_answersNext {r : Result} (h : answersNext r = true) : ∃ t, r = .next t := by
  cases r with
  | next t => exact ⟨t, rfl⟩
  | fault e => cases h
  | refused e => cases h

/-- The states of the witnesses are ready, busy or in ERROR. -/
theorem test_witness_states :
    blank.ready ∧ loaded.ready ∧ done.ready ∧ busy.state = .busy ∧ busy.inflight = true ∧ inError.state = .error :=
  ⟨.inl rfl, .inl rfl, .inr rfl, rfl, rfl, rfl⟩

/-- What the guards of a writing command ask for: ERROR; a wrong payload outside ERROR; BUSY with the right payload. -/
theorem test_witness_WriterGuards :
    inError.state = .error ∧ (blank.state ≠ .error ∧ (Instr.baseWrite []).payload.length ≠ 1) ∧
    (busy.state = .busy ∧ (Instr.hdrUpload zeroHeader).payload.length = 32 ∧ (Instr.hdrWrite 31 [7]).payload.length = 1 ∧
      (Instr.tgtUpload genesisTarget).payload.length = 8 ∧ (Instr.templateLoad genesisPayload).payload.length = 20) := by
  decide

theorem test_witness_DecodeOfEncode :
    (Instr.infoRead 15 []).wellFormed = true ∧ (Instr.hdrUpload zeroHeader).wellFormed = true := by decide
theorem test_witness_EncodeOfDecode : decode 0x0200001F [5] = .ok (.hdrWrite 31 [5]) := by decide

/-- Where the clauses of R76 begin. -/
theorem test_witness_IllegalWordsAreThoseOfR76 :
    ([0x0F000000, 0x0E000100, 0x02000020, 0x03000020, 0x04000008, 0x0D000010, 0x0D000007, 0x01000001].all
      (fun w => (decode w []).toOption.isNone) = true) ∧
    [0x0E000000, 0x0200001F, 0x0300001F, 0x04000007, 0x0D00000F, 0x0D000006].all
      (fun w => (decode w []).toOption.isSome) = true := by decide

theorem test_witness_NopHasNoEffect : opField 0x00000001 = 0x00 ∧ (0x00000001 : Word) ≠ 0 := by decide
theorem test_witness_StatusReadReturnsStatus : opField 0x0C000001 = 0x0C ∧ (0x0C000001 : Word) ≠ 0x0C000000 := by decide

theorem test_witness_InfoReadReturnsInfo :
    loaded.base.written = true ∧ blank.base.written = false ∧
    (8 ≤ (8 : BitVec 4).toNat ∧ blank.tgt[(8 : BitVec 4).toNat - 8]? = some Cell.unwritten) ∧
    (8 ≤ (15 : BitVec 4).toNat ∧ loaded.tgt[(15 : BitVec 4).toNat - 8]? = some (Cell.of 0)) ∧
    (opField 0x0D000010 = 0x0D ∧ 16 ≤ (idxField 0x0D000010).toNat) ∧
    (opField 0x0D000007 = 0x0D ∧ (idxField 0x0D000007).toNat = 7) := by decide

theorem test_witness_ResetCommandRestoresResetState :
    inError.inflight = false ∧ busy.inflight = true ∧ opField 0x0E000100 = 0x0E ∧ (0x0E000100 : Word) ≠ 0x0E000000 := by
  decide

theorem test_witness_HdrUploadWritesAllWords : blank.ready ∧ blank.hdr.length = 32 ∧ zeroHeader.length = 32 :=
  ⟨.inl rfl, rfl, rfl⟩
theorem test_witness_HdrWriteWritesOneWord :
    done.ready ∧ ([7] : List Word) = [7] ∧ opField 0x02000020 = 0x02 ∧ 32 ≤ (idxField 0x02000020).toNat :=
  ⟨.inr rfl, rfl, by decide, by decide⟩
theorem test_witness_TgtWriteWritesOneWord :
    done.ready ∧ ([7] : List Word) = [7] ∧ opField 0x04000008 = 0x04 ∧ 8 ≤ (idxField 0x04000008).toNat :=
  ⟨.inr rfl, rfl, by decide, by decide⟩
theorem test_witness_TgtUploadWritesAllWords : blank.ready ∧ blank.tgt.length = 8 ∧ genesisTarget.length = 8 :=
  ⟨.inl rfl, rfl, rfl⟩
theorem test_witness_BaseWriteSetsBase : done.ready ∧ ([0xFFFFFFFF] : List Word) = [0xFFFFFFFF] := ⟨.inr rfl, rfl⟩
theorem test_witness_TemplateLoadWritesEncodedHeader :
    blank.ready ∧ blank.hdr.length = 32 ∧ (templateOfBus genesisPayload).wf = true ∧
    busForm (templateOfBus genesisPayload) ++ [0x1DAC2B7C] = genesisPayload := ⟨.inl rfl, rfl, by decide, by decide⟩

/-- No lane, and as many lanes as slots. -/
theorem test_witness_DispatchIsAccepted :
    loaded.ready ∧ (0 : Word).toNat ≤ loaded.cfg.capacity ∧ (4 : Word).toNat ≤ loaded.cfg.capacity ∧
    loaded.inputsWritten = true := ⟨.inl rfl, by decide, by decide, by decide⟩
theorem test_witness_DispatchIsTurnedAway : loaded.ready ∧ loaded.cfg.capacity < (5 : Word).toNat := ⟨.inl rfl, by decide⟩

/-- A block whose environment fails the next command. -/
def failing : State := { done with cfg := { cfg4 with deviceFaults := true }, fails := true }

/-- The same with slots that nothing has written. -/
def failingBlank : State := { blank with cfg := { cfg4 with deviceFaults := true }, fails := true }

theorem test_witness_ReadbackReturnsOut :
    (done.ready ∧ done.out.length = done.cfg.capacity ∧ (done.cfg.deviceFaults && done.fails) = false ∧
      allWritten done.out = true) ∧
    (blank.ready ∧ blank.out.length = blank.cfg.capacity ∧ (blank.cfg.deviceFaults && blank.fails) = false ∧
      allWritten blank.out = false) ∧
    (failing.ready ∧ failing.out.length = failing.cfg.capacity ∧ (failing.cfg.deviceFaults && failing.fails) = true) ∧
    (failingBlank.ready ∧ failingBlank.out.length = failingBlank.cfg.capacity ∧
      (failingBlank.cfg.deviceFaults && failingBlank.fails) = true ∧ allWritten failingBlank.out = false) ∧
    (busy.state = .busy ∧ (Instr.readback []).payload.length = 0) ∧
    (busy.state ≠ .error ∧ (Instr.readback [1]).payload.length ≠ 0 ∧
      opField 0x08000001 = 0x08 ∧ (0x08000001 : Word) ≠ 0x08000000) :=
  ⟨⟨.inr rfl, by decide, by decide, by decide⟩, ⟨.inl rfl, by decide, by decide, by decide⟩,
    ⟨.inr rfl, by decide, by decide⟩, ⟨.inl rfl, by decide, by decide, by decide⟩, by decide, by decide⟩

theorem test_witness_HashReturnsDigestAndPass :
    (loaded.ready ∧ allWritten (loaded.messageCells 0x1DAC2B7C) = true ∧ allWritten loaded.targetCells = true) ∧
    (failing.ready ∧ allWritten (failing.messageCells 0) = true ∧ allWritten failing.targetCells = true ∧
      (failing.cfg.deviceFaults && failing.fails) = true) ∧
    (busy.state = .busy ∧ (Instr.hash [0]).payload.length = 1) ∧
    (busy.state ≠ .error ∧ (Instr.hash []).payload.length ≠ 1 ∧
      opField 0x0B000001 = 0x0B ∧ (0x0B000001 : Word) ≠ 0x0B000000) :=
  ⟨⟨.inl rfl, by decide, by decide⟩, ⟨.inr rfl, by decide, by decide, by decide⟩, by decide, by decide⟩

theorem test_witness_HdrReadReturnsWord :
    (loaded.hdr[(31 : BitVec 5).toNat]? = some (Cell.of 0x280) ∧ loaded.state ≠ .error) ∧
    (blank.hdr[(0 : BitVec 5).toNat]? = some Cell.unwritten ∧ blank.state ≠ .error) ∧
    (busy.state ≠ .error ∧ (Instr.hdrRead 0 [1]).payload.length ≠ 0) ∧
    (opField 0x03000020 = 0x03 ∧ 32 ≤ (idxField 0x03000020).toNat) := by decide
theorem test_witness_HdrDecodeReturnsTemplate :
    (busy.hdr.length = 32 ∧ busy.state ≠ .error ∧ allWritten busy.hdr = true) ∧
    (blank.hdr.length = 32 ∧ blank.state ≠ .error ∧ allWritten blank.hdr = false) ∧
    (Instr.hdrDecode [1]).payload.length ≠ 0 ∧ (opField 0x0A000001 = 0x0A ∧ (0x0A000001 : Word) ≠ 0x0A000000) := by decide

theorem test_witness_WrongPayloadRaises :
    (Instr.readback [1]).indexLegal = true ∧ (Instr.readback [1]).payload.length ≠ (Instr.readback [1]).opcode.payloadWords ∧
    busy.state ≠ .error := by decide
theorem test_witness_WritesWhileBusyRaise :
    busy.state = .busy ∧ (Instr.dispatch [1]).wellFormed = true ∧
    (Instr.dispatch [1]).opcode ∈
      ([.hdrUpload, .hdrWrite, .tgtWrite, .tgtUpload, .baseWrite, .templateLoad, .dispatch] : List Opcode) := by decide

/-- The word 0x0F000000 is illegal with any payload. -/
theorem test_illegal_word_any_payload : IllegalWord 0x0F000000 := fun _ => ⟨.reservedOpcode, rfl⟩

theorem test_witness_IllegalWordRaises :
    IllegalWord 0x0F000000 ∧ (sending blank 0x0F000000 []).scheduled = some .commandUnit ∧
    (sending inError 0x0F000000 []).scheduled = some .commandUnit :=
  ⟨test_illegal_word_any_payload, by decide, by decide⟩

theorem test_witness_CommandsAreDiscardedInError :
    inError.state = .error ∧ (Instr.hash [0]).opcode ∉ ([.nop, .statusRead, .infoRead, .reset] : List Opcode) := by decide

/-- A step that keeps ERROR, and the one that leaves it. -/
theorem test_witness_OnlyResetLeavesError :
    (∃ t, step (sending inError 0x0C000000 []) = .next t) ∧ (∃ t, step (sending inError 0x0E000000 []) = .next t) :=
  ⟨next_of_answersNext (by decide), next_of_answersNext (by decide)⟩

theorem test_witness_UnwrittenReadsFault :
    blank.ready ∧ Memory.wf blank = true ∧ (4 : Word).toNat ≤ blank.cfg.capacity ∧ blank.inputsWritten = false ∧
    (allWritten (blank.messageCells 0) && allWritten blank.targetCells) = false :=
  ⟨.inl rfl, by decide, by decide, by decide, by decide⟩

/-- A block that cannot fail, in ERROR with E_DEVICE: a state no run reaches, in which the code stays. -/
theorem test_witness_NoDeviceErrorWithoutDeviceFaults :
    inError.cfg.deviceFaults = false ∧
    step { inError with errcode := .device } = .next { inError with errcode := .device } := ⟨rfl, rfl⟩

/-- A dispatch whose failure is what the free value picks, in BUSY and in ERROR. -/
theorem test_witness_FailedDispatchRaisesDeviceError :
    State.scheduled { busy with cfg := { cfg4 with deviceFaults := true }, lanes := [], turn := 1 } = some .deviceFailure ∧
    State.scheduled { inError with cfg := { cfg4 with deviceFaults := true }, inflight := true, turn := 1 } =
      some .deviceFailure := by decide

theorem test_witness_HeaderWritersFrame :
    (∃ t, exec (.hdrUpload zeroHeader) blank = .next t) ∧ (∃ t, exec (.templateLoad genesisPayload) blank = .next t) ∧
    (∃ t, exec (.hdrWrite 31 [7]) blank = .next t) ∧ (∃ t, exec (.hdrWrite 31 [7]) inError = .next t) :=
  ⟨next_of_answersNext (by decide), next_of_answersNext (by decide), next_of_answersNext (by decide),
    next_of_answersNext (by decide)⟩
theorem test_witness_TargetWritersFrame :
    (∃ t, exec (.tgtUpload genesisTarget) blank = .next t) ∧ (∃ t, exec (.tgtWrite 7 [7]) blank = .next t) ∧
    (∃ t, exec (.tgtWrite 7 [7]) busy = .next t) :=
  ⟨next_of_answersNext (by decide), next_of_answersNext (by decide), next_of_answersNext (by decide)⟩
theorem test_witness_BaseWriteAndDispatchFrame :
    (∃ t, exec (.baseWrite [7]) blank = .next t) ∧ (∃ t, exec (.dispatch [0]) loaded = .next t) ∧
    (∃ t, exec (.dispatch [5]) loaded = .next t) :=
  ⟨next_of_answersNext (by decide), next_of_answersNext (by decide), next_of_answersNext (by decide)⟩
theorem test_witness_ReadingCommandsFrame :
    (Instr.hdrRead 31 []).opcode ∈ ([.nop, .hdrRead, .hdrDecode, .statusRead, .infoRead, .readback, .hash] : List Opcode) ∧
    (Instr.hdrRead 31 []).wellFormed = true ∧ (Instr.hdrRead 31 []).opcode ∉ ([.readback, .hash] : List Opcode) ∧
    (∃ t, exec (.hdrRead 31 []) loaded = .next t) :=
  ⟨by decide, by decide, by decide, next_of_answersNext (by decide)⟩
theorem test_witness_ReadsAreIdempotent :
    (Instr.statusRead []).opcode ∈ ([.hdrRead, .hdrDecode, .statusRead, .infoRead, .readback] : List Opcode) ∧
    exec (.statusRead []) done = .next (done.answered [done.statusWord]) := ⟨by decide, rfl⟩

/-- A step of each kind: the command unit runs a command or takes an illegal word, a lane moves, Completion fires, nothing
moves. -/
theorem test_witness_steps :
    (∃ t, step (sending blank 0x06000000 [7]) = .next t) ∧ (∃ t, step (sending blank 0x0F000000 []) = .next t) ∧
    (∃ t, step busy = .next t) ∧ (∃ t, step { busy with lanes := [] } = .next t) ∧ (∃ t, step blank = .next t) :=
  ⟨next_of_answersNext (by decide), next_of_answersNext (by decide), next_of_answersNext (by decide),
    next_of_answersNext (by decide), next_of_answersNext (by decide)⟩
theorem test_witness_ConstantsNeverChange : ∃ t, step (sending inError 0x0E000000 []) = .next t :=
  next_of_answersNext (by decide)
theorem test_witness_StateTransitions :
    (∃ t, step (sending loaded 0x07000000 [0]) = .next t) ∧ (∃ t, step { busy with lanes := [] } = .next t) :=
  ⟨next_of_answersNext (by decide), next_of_answersNext (by decide)⟩
theorem test_witness_CommandsCompleteInOrder :
    (∃ t, step (sending blank 0x0C000000 []) = .next t) ∧ (∃ t, step busy = .next t) :=
  ⟨next_of_answersNext (by decide), next_of_answersNext (by decide)⟩
theorem test_witness_CommandsReturnQWords :
    (Instr.readback []).indexLegal = true ∧ (∃ t, exec (.readback []) done = .next t) ∧
    (∃ t, exec (.readback []) busy = .next t) :=
  ⟨rfl, next_of_answersNext (by decide), next_of_answersNext (by decide)⟩
theorem test_witness_HeldCommandsWait :
    ((Instr.readback []).wellFormed = true ∧ (Instr.hash [0]).wellFormed = true ∧ busy.state = .busy) ∧
    busy.inflight = true ∧ (sending busy 0x08000000 []).headHolds = true ∧
    ∃ t, step (sending busy 0x08000000 []) = .next t :=
  ⟨by decide, rfl, by decide, next_of_answersNext (by decide)⟩
theorem test_witness_StepsComplete :
    Memory.wf done = true ∧ allWritten done.hdr = true ∧ allWritten done.tgt = true ∧ allWritten done.out = true ∧
    done.base.written = true := by decide
theorem test_witness_StepRunsDecodedInstruction :
    (decode 0x0C000000 [] = .ok (.statusRead []) ∧ (sending blank 0x0C000000 []).headHolds = false ∧
      (sending blank 0x0C000000 []).inflight = false) ∧
    ((sending { busy with patience := 1 } 0x0C000000 []).headHolds = false ∧
      (sending { busy with patience := 1 } 0x0C000000 []).scheduled = some .commandUnit) := by
  decide

/-- A lane that starts is on track. -/
theorem startLane_onTrack (s : State) (i : Nat) :
    LaneOnTrack s (startLane (cellWords (s.messageCells 0)) s.base.value i) := by
  refine ⟨rfl, ?_, by simp [startLane, enterCompression], rfl, rfl, rfl⟩
  rw [startLane_message, messageCells_words, withNonce_withNonce]; rfl

/-- The dispatch of two lanes meets the structural invariant, and so it does with a READBACK waiting. -/
theorem test_witness_Legal (q : List Transaction) : Legal { busy with queue := q } where
  config := show busy.cfg.wf = true by decide
  buffers := show Memory.wf busy = true by decide
  lanesWithinCapacity := show busy.lc.toNat ≤ busy.cfg.capacity by decide
  busyInflight := fun _ => rfl
  inflightBusyOrError := fun _ => .inl rfl
  errcode := show busy.errcode = .none ↔ busy.state ≠ .error by decide
  errcmd := fun _ => rfl
  lanesInflight := fun _ => rfl
  laneIndexes := by
    intro l hl
    simp only [busy, State.acceptDispatch, List.mem_map, List.mem_range] at hl ⊢
    obtain ⟨i, hi, rfl⟩ := hl
    simpa using hi
  laneDistinct := by
    have h : busy.lanes.map Lane.index = [0, 1] := rfl
    show (busy.lanes.map Lane.index).Pairwise (· < ·)
    rw [h]; decide
  inputs := fun _ => show busy.inputsWritten = true by decide
  outWritten := fun _ => show allWritten busy.out = true by decide

/-- And the invariant of a dispatch in flight. -/
theorem test_witness_DispatchSound : DispatchSound busy where
  lanes := by
    intro _ l hl
    simp only [busy, State.acceptDispatch, List.mem_map, List.mem_range] at hl
    obtain ⟨i, -, rfl⟩ := hl
    have h := startLane_onTrack loaded i
    exact ⟨h.nonce, h.message, h.round, h.chain, h.schedule, h.work⟩
  slots := by
    intro _ j hj
    have hm : busy.lanes.map Lane.index = [0, 1] := rfl
    rw [hm]
    have hj : j < 4 := hj
    by_cases h : j ∈ [0, 1]
    · rw [if_pos h]
      simp only [List.mem_cons, List.not_mem_nil, or_false] at h
      rcases h with rfl | rfl <;> rfl
    · rw [if_neg h, State.resultSlot, dispatchSlot, if_neg]
      · interval_cases j <;> rfl
      · simp only [List.mem_cons, List.not_mem_nil, or_false, not_or] at h
        intro hlt
        have : j < 2 := hlt.1
        omega

theorem test_witness_StepKeepsLegal : Legal busy ∧ ∃ t, step busy = .next t :=
  ⟨test_witness_Legal [], next_of_answersNext (by decide)⟩
theorem test_witness_StepKeepsDispatchSound : Legal busy ∧ DispatchSound busy ∧ ∃ t, step busy = .next t :=
  ⟨test_witness_Legal [], test_witness_DispatchSound, next_of_answersNext (by decide)⟩
theorem test_witness_InputsAreFrozenInFlight : Legal busy ∧ busy.inflight = true ∧ ∃ t, step busy = .next t :=
  ⟨test_witness_Legal [], rfl, next_of_answersNext (by decide)⟩
/-- The state after a step, the same state where there is none. -/
def nextOr (s : State) : State :=
  match step s with
  | .next t => t
  | _ => s

/-- A host that polls: one STATUS_READ before every step, for ever (spec/30_encoding.md R79, WAIT). -/
def poll : List Transaction := [⟨0x0C000000, []⟩]

/-- The run of such a host on the dispatch of two lanes. -/
def polledRun : Nat → State
  | 0 => busy
  | n + 1 => nextOr (poll.foldl State.issue (polledRun n))

/-- A queue of polls keeps every step going, and stays one. -/
theorem polls_step {s : State} (h : ∀ u ∈ s.queue, u = ⟨0x0C000000, []⟩) :
    ∃ t, step s = .next t ∧ ∀ u ∈ t.queue, u = ⟨0x0C000000, []⟩ := by
  have hd : decode 0x0C000000 [] = .ok (.statusRead []) := by decide
  have hx : ∀ s : State, exec (.statusRead []) s = .next (s.answered [s.statusWord]) := fun s =>
    guarded_run _ (fun _ => rfl) rfl (fun _ => rfl) rfl
  have hn : ∃ t, step s = .next t := by
    unfold step
    cases hs : s.scheduled with
    | none => exact ⟨s, rfl⟩
    | some a =>
      cases a with
      | commandUnit =>
        obtain ⟨hq, -, -⟩ := scheduled_commandUnit hs
        cases hl : s.queue with
        | nil => exact absurd hl hq
        | cons u us =>
          obtain rfl := h u (by simp [hl])
          exact ⟨(s.answered [s.statusWord]).redraw .commandUnit, by
            simp only [agentTurn, commandUnitTurn, hl, hd, hx, mapNext_next]⟩
      | lane k => exact ⟨_, rfl⟩
      | completion => exact ⟨_, rfl⟩
      | deviceFailure => exact ⟨_, rfl⟩
  obtain ⟨t, ht⟩ := hn
  refine ⟨t, ht, ?_⟩
  rcases step_cases ht with _ | ⟨u, i, s', hq, hu, _, hs, _⟩ | ⟨u, e, hq, he, _⟩ | _ | _ | _ | _
  · exact h
  · obtain rfl := h u (List.mem_of_mem_head? hq)
    rw [hd] at hu; cases hu
    rw [hx] at hs; cases hs
    exact fun u hu => h u (List.mem_of_mem_tail hu)
  · obtain rfl := h u (List.mem_of_mem_head? hq)
    rw [hd] at he; cases he
  all_goals simpa using h

/-- Such a run is a run with a host, from a dispatch in flight. -/
theorem test_witness_HostRun : Legal (polledRun 0) ∧ (polledRun 0).inflight = true ∧ HostRun polledRun (fun _ => poll) := by
  have hi : ∀ n, ∀ u ∈ (poll.foldl State.issue (polledRun n)).queue, u = ⟨0x0C000000, []⟩ := by
    intro n
    induction n with
    | zero => decide
    | succ n ih =>
      obtain ⟨t, ht, hq⟩ := polls_step ih
      have : polledRun (n + 1) = t := by rw [polledRun, nextOr, ht]
      rw [this, (issued_fields poll t).2.2.2.2]
      simpa [poll] using fun u hu => hu.elim (hq u) id
  refine ⟨test_witness_Legal [], rfl, fun n => ?_⟩
  obtain ⟨t, ht, -⟩ := polls_step (hi n)
  rw [ht, polledRun, nextOr, ht]

theorem test_witness_HeldCommandIsReleased :
    Legal (sending busy 0x08000000 []) ∧ (sending busy 0x08000000 []).headHolds = true :=
  ⟨test_witness_Legal _, by decide⟩

/-- A dispatch of one lane, the genesis nonce's, about to complete. -/
def ending : State :=
  { busy with lc := 1, lanes := [], out := [0x1DAC2B7C, 0, 0, 0].map Cell.of }

/-- V-E1 for its one lane. -/
theorem test_genesis_slot : ending.resultSlot 0 = 0x1DAC2B7C := by decide +kernel

theorem test_witness_CompletionDeliversResult :
    Legal ending ∧ DispatchSound ending ∧ ending.scheduled = some .completion := by
  refine ⟨⟨by decide, by decide, by decide, fun _ => rfl, fun _ => .inl rfl, by decide, fun _ => rfl, fun _ => rfl,
    nofun, .nil, fun _ => by decide, fun _ => by decide⟩, ⟨fun _ l h => ?_, ?_⟩, by decide⟩
  · simp [ending] at h
  intro _ j hj
  have hj : j < 4 := hj
  rw [if_neg (by intro h; nomatch h)]
  by_cases h : j = 0
  · subst h; rw [test_genesis_slot]; rfl
  · rw [State.resultSlot, dispatchSlot, if_neg]
    · interval_cases j <;> first | contradiction | rfl
    · intro hlt
      have : j < 1 := hlt.1
      omega

theorem test_witness_LaneNoncesAreDistinct : (0 : Nat) < 4294967296 ∧ (4294967295 : Nat) < 4294967296 ∧ (0 : Nat) ≠ 4294967295 := by
  decide
theorem test_witness_LaneGroupsCoverTheLanes : 1 ≤ 64 ∧ (invocations 3 2).filter (fun k => decide (k < 3)) = [0, 1, 2] := by
  decide
theorem test_witness_ComparatorIsNumeric : genesisView.length = 8 ∧ genesisTarget.length = 8 := by decide
theorem test_witness_ViewOrdersDigestWords :
    (hashWords genesisDigest)[0]? = some 0x6FE28C0A ∧ (hashWords genesisDigest)[7]? = some 0 := by decide
theorem test_witness_CodecRoundTrips :
    (templateOfBus genesisPayload).wf = true ∧ (genesisHeader.length = 32 ∧ (decodeHeader genesisHeader).valid = true) ∧
    ((genesisHeader.set 31 0).length = 32 ∧ (decodeHeader (genesisHeader.set 31 0)).valid = false) := by decide
theorem test_witness_EncodePacksTheSerialization : (templateOfBus genesisPayload).wf = true := by decide
theorem test_witness_BusFormIsFaithful :
    (templateOfBus genesisPayload).wf = true ∧ genesisPayload.length = 20 := by decide
theorem test_witness_CollectReturnsLowestSlot : 0 ≤ ([7, 0] : List Word).length ∧ 2 ≤ ([7, 0] : List Word).length := by decide

/-- V-E1, the search of the genesis nonce alone, and V-E7, a search that collects nothing. -/
theorem test_witness_ReportedNoncePasses :
    collect ((List.range 1).map (dispatchSlot .btc genesisHeader genesisTarget 0x1DAC2B7C 1)) 1 = some 0x1DAC2B7C ∧
    collect [0, 0, 0, 0] 1 = none := by
  decide +kernel

end Sys2Proof.Tests
end

/-! ## The family of spec/10_state.md: the state, what every step keeps, and how a step ends -/

section
namespace Sys2Proof.Machine

/-! ### The structural invariant under each of the state's operations -/

/-- `Legal` speaks of no queue, no response log and no free value. -/
theorem Legal.withBookkeeping {s : State} (h : Legal s) (q : List Transaction) (r : List (List Word)) (d n p : Nat)
    (f : Bool) :
    Legal { s with queue := q, responses := r, draws := d, turn := n, patience := p, fails := f } :=
  ⟨h.config, h.buffers, h.lanesWithinCapacity, h.busyInflight, h.inflightBusyOrError, h.errcode, h.errcmd,
    h.lanesInflight, h.laneIndexes, h.laneDistinct, h.inputs, h.outWritten⟩

theorem Legal.redraw {s : State} (h : Legal s) (a : Agent) : Legal (s.redraw a) := h.withBookkeeping ..

theorem Legal.answered {s : State} (h : Legal s) (r : List Word) : Legal (s.answered r) := h.withBookkeeping ..

/-- Error entry in either STATE: in ERROR the first error stands, elsewhere a code of R250 is recorded. -/
theorem Legal.enterError {s : State} (h : Legal s) {c : ErrorCode} (hc : c ≠ .none) (w : Word) :
    Legal (s.enterError c w) := by
  by_cases he : s.state = .error
  · rwa [State.enterError_of_error he]
  · rw [State.enterError_of_ne he]
    exact {
      config := h.config
      buffers := h.buffers
      lanesWithinCapacity := h.lanesWithinCapacity
      busyInflight := nofun
      inflightBusyOrError := fun _ => .inr rfl
      errcode := by simp [hc]
      errcmd := fun hn => absurd rfl hn
      lanesInflight := h.lanesInflight
      laneIndexes := h.laneIndexes
      laneDistinct := h.laneDistinct
      inputs := h.inputs
      outWritten := by
        rintro (hb | hd | hf)
        · cases hb
        · cases hd
        · exact h.outWritten (.inr (.inr hf)) }

theorem Legal.reject {s : State} (h : Legal s) {c : ErrorCode} (hc : c ≠ .none) (w : Word) (q : Nat) :
    Legal (s.reject c w q) :=
  (h.enterError hc w).answered (zeros q)

/-- In IDLE and DONE nothing is in flight (spec/10_state.md R35). -/
theorem Legal.inflight_of_ready {s : State} (h : Legal s) (hr : s.ready) : s.inflight = false := by
  cases hf : s.inflight
  · rfl
  · rcases hr with hr | hr <;> rcases h.inflightBusyOrError hf with hs | hs <;> rw [hr] at hs <;> cases hs

/-- The commands that write HDR, TGT or BASE run only while no dispatch depends on them. -/
theorem Legal.withInputs {s : State} (h : Legal s) (hr : s.ready) {hdr tgt : Buffer} (base : Cell)
    (hh : hdr.length = s.hdr.length) (ht : tgt.length = s.tgt.length) :
    Legal { s with hdr := hdr, tgt := tgt, base := base } where
  config := h.config
  buffers := by
    have hb := (Memory.wf_iff s).1 h.buffers
    exact (Memory.wf_iff _).2 ⟨hh.trans hb.1, ht.trans hb.2.1, hb.2.2⟩
  lanesWithinCapacity := h.lanesWithinCapacity
  busyInflight := h.busyInflight
  inflightBusyOrError := h.inflightBusyOrError
  errcode := h.errcode
  errcmd := h.errcmd
  lanesInflight := h.lanesInflight
  laneIndexes := h.laneIndexes
  laneDistinct := h.laneDistinct
  inputs := fun hf => absurd hf (by simp [h.inflight_of_ready hr])
  outWritten := h.outWritten

/-- The lanes that acceptance starts have the indices 0, 1, …, LC − 1 in this order. -/
theorem map_index_startLanes (header : List Word) (base : Word) (n : Nat) :
    ((List.range n).map (startLane header base)).map Lane.index = List.range n := by
  simp [Function.comp_def]

theorem Legal.acceptDispatch {s : State} (h : Legal s) (hr : s.ready) (header : List Word) {lc : Word}
    (hc : lc.toNat ≤ s.cfg.capacity) (hin : s.inputsWritten = true) : Legal (s.acceptDispatch header lc) where
  config := h.config
  buffers := Memory.wf_acceptDispatch s header lc h.buffers
  lanesWithinCapacity := hc
  busyInflight := fun _ => rfl
  inflightBusyOrError := fun _ => .inl rfl
  errcode := by
    have he : s.state ≠ .error := by rcases hr with hr | hr <;> simp [hr]
    simpa using h.errcode.2 he
  errcmd := fun _ => h.errcmd (by rcases hr with hr | hr <;> simp [hr])
  lanesInflight := fun _ => rfl
  laneIndexes := by
    intro l hl
    obtain ⟨i, hi, rfl⟩ := List.mem_map.1 hl
    exact List.mem_range.1 hi
  laneDistinct := by
    rw [State.acceptDispatch_lanes, map_index_startLanes]
    exact List.pairwise_lt_range
  inputs := fun _ => hin
  outWritten := fun _ => allWritten_replicate_of ..

/-- A block of any build in its range comes out of reset legal (spec/70_reset_and_hazards.md R281). -/
theorem legal_resetOf {cfg : Config} (h : cfg.wf = true) : Legal (State.resetOf cfg) where
  config := h
  buffers := Memory.wf_resetOf cfg
  lanesWithinCapacity := Nat.zero_le _
  busyInflight := nofun
  inflightBusyOrError := nofun
  errcode := by simp [State.resetOf]
  errcmd := fun _ => rfl
  lanesInflight := fun hn => absurd rfl hn
  laneIndexes := nofun
  laneDistinct := .nil
  inputs := nofun
  outWritten := by rintro (hb | hd | hf) <;> contradiction

theorem Legal.applyReset {s : State} (h : Legal s) : Legal s.applyReset :=
  (legal_resetOf h.config).withBookkeeping ..

/-- A lane goes on under its own index (spec/10_state.md R22). -/
theorem Legal.setLane {s : State} (h : Legal s) {k : Nat} {l l' : Lane} (hf : s.inflight = true)
    (hk : s.lanes[k]? = some l) (hi : l'.index = l.index) : Legal { s with lanes := s.lanes.set k l' } where
  config := h.config
  buffers := h.buffers
  lanesWithinCapacity := h.lanesWithinCapacity
  busyInflight := h.busyInflight
  inflightBusyOrError := h.inflightBusyOrError
  errcode := h.errcode
  errcmd := h.errcmd
  lanesInflight := fun _ => hf
  laneIndexes := by
    intro m hm
    rcases List.mem_or_eq_of_mem_set hm with hm | rfl
    · exact h.laneIndexes m hm
    · exact hi ▸ h.laneIndexes l (List.mem_of_getElem? hk)
  laneDistinct := by
    have hsame : (s.lanes.set k l').map Lane.index = s.lanes.map Lane.index := by
      obtain ⟨hlt, rfl⟩ := List.getElem?_eq_some_iff.1 hk
      rw [List.map_set, hi, ← List.getElem_map Lane.index (h := by simpa using hlt), List.set_getElem_self]
    exact hsame ▸ h.laneDistinct
  inputs := h.inputs
  outWritten := h.outWritten

/-- A lane writes its slot and is discarded (spec/10_state.md R23). -/
theorem Legal.endLane {s : State} (h : Legal s) (k : Nat) (l : Lane) (d : HashState) (hf : s.inflight = true) :
    Legal { s with lanes := s.lanes.eraseIdx k, out := s.writeSlot l d } where
  config := h.config
  buffers := (Memory.wf_memWrite s _ _ h.buffers).2.2
  lanesWithinCapacity := h.lanesWithinCapacity
  busyInflight := h.busyInflight
  inflightBusyOrError := h.inflightBusyOrError
  errcode := h.errcode
  errcmd := h.errcmd
  lanesInflight := fun _ => hf
  laneIndexes := fun m hm => h.laneIndexes m (List.mem_of_mem_eraseIdx hm)
  laneDistinct := h.laneDistinct.sublist ((List.eraseIdx_sublist ..).map _)
  inputs := h.inputs
  outWritten := fun _ => allWritten_memWrite _ _ _ (h.outWritten (.inr (.inr hf)))

/-- Completion: BUSY becomes DONE and ERROR stays, with the slots written (spec/43_search_engine.md R177). -/
theorem Legal.complete {s : State} (h : Legal s) (hf : s.inflight = true) (hl : s.lanes = []) :
    Legal { s with inflight := false, state := if s.state = .busy then .done else s.state } := by
  have hstate := h.inflightBusyOrError hf
  exact {
    config := h.config
    buffers := h.buffers
    lanesWithinCapacity := h.lanesWithinCapacity
    busyInflight := by rcases hstate with hs | hs <;> simp [hs]
    inflightBusyOrError := nofun
    errcode := by rcases hstate with hs | hs <;> simp [hs, h.errcode]
    errcmd := by rcases hstate with hs | hs <;> simp [hs, h.errcmd]
    lanesInflight := fun hn => absurd hl hn
    laneIndexes := h.laneIndexes
    laneDistinct := h.laneDistinct
    inputs := nofun
    outWritten := fun _ => h.outWritten (.inr (.inr hf)) }

/-- Error entry does not see the dispatch in flight. -/
theorem enterError_withDispatch (s : State) (f : Bool) (ls : List Lane) (out : Buffer) (c : ErrorCode) (w : Word) :
    State.enterError { s with inflight := f, lanes := ls, out := out } c w =
      { s.enterError c w with inflight := f, lanes := ls, out := out } := by
  by_cases he : s.state = .error <;> simp [State.enterError, he]

/-- In ERROR a dispatch may end with any OUT of CAP slots (spec/43_search_engine.md R179). -/
theorem Legal.dropDispatch {s : State} (h : Legal s) (he : s.state = .error) {out : Buffer}
    (ho : out.length = s.cfg.capacity) : Legal { s with inflight := false, lanes := [], out := out } where
  config := h.config
  buffers := by
    have hb := (Memory.wf_iff s).1 h.buffers
    exact (Memory.wf_iff _).2 ⟨hb.1, hb.2.1, ho⟩
  lanesWithinCapacity := h.lanesWithinCapacity
  busyInflight := fun hb => absurd (he.symm.trans hb) nofun
  inflightBusyOrError := nofun
  errcode := h.errcode
  errcmd := h.errcmd
  lanesInflight := fun hn => absurd rfl hn
  laneIndexes := nofun
  laneDistinct := .nil
  inputs := nofun
  outWritten := by simp [he]

/-- A dispatch fails: its error is recorded unless one stands already, and it is dropped. -/
theorem Legal.failDispatch {s : State} (h : Legal s) {out : Buffer} (ho : out.length = s.cfg.capacity) (w : Word) :
    Legal (State.enterError { s with inflight := false, lanes := [], out := out } .device w) := by
  rw [enterError_withDispatch]
  exact (h.enterError (c := .device) nofun w).dropDispatch (s.enterError_state _ _) (by simpa using ho)

/-- Every instruction keeps the structural invariant. -/
theorem Legal.of_exec {i : Instr} {s t : State} (h : Legal s) (hx : exec i s = .next t) : Legal t := by
  cases exec_cases hx with
  | held _ => exact h
  | rejected c q hc _ => exact h.reject hc _ q
  | answered r => exact h.answered r
  | wroteHdr k ws hr => exact (h.withInputs hr s.base (memWrite_length ..) rfl).answered []
  | wroteTgt k ws hr => exact (h.withInputs hr s.base rfl (memWrite_length ..)).answered []
  | wroteBase w hr => exact (h.withInputs hr (Cell.of w) rfl rfl).answered []
  | accepted lc hr hc hin => exact (h.acceptDispatch hr _ hc hin).answered []
  | reset _ _ => exact h.applyReset.answered []

/-- Settles O46: each of the seven ways a step can go keeps the invariant. -/
theorem stepKeepsLegal : Obligations.StepKeepsLegal := by
  intro s t h hstep
  cases step_cases hstep with
  | idle _ => exact h
  | ran _ _ _ _ _ _ hx _ => exact (h.of_exec hx).redraw _
  | illegal u _ _ _ _ => exact (h.reject (c := .illegalCmd) nofun u.cmd 0).redraw _
  | laneRan k l l' hf hk hl => exact (h.setLane hf hk (laneTurn_keeps hl).1).redraw _
  | laneEnded k l d hf _ _ => exact (h.endLane k l d hf).redraw _
  | completed hf hl => exact (h.complete hf hl).redraw _
  | failed _ _ => exact (h.failDispatch (failedOut_length ..) dispatchWord).redraw _

end Sys2Proof.Machine
end

section
namespace Sys2Proof.Machine

/-! ### The command word of a decoded instruction (spec/30_encoding.md R77) -/

/-- A command word is its three fields (R71). -/
theorem fields_of_word (cmd : Word) : opField cmd ++ rsvField cmd ++ idxField cmd = cmd := by
  apply BitVec.eq_of_getLsbD_eq
  intro i hi
  simp only [opField, rsvField, idxField, BitVec.getLsbD_append, BitVec.getLsbD_extractLsb']
  interval_cases i <;> simp

/-- A field whose upper bits are zero is the operand index in its lower bits, zero-extended. -/
theorem setWidth_of_upper_zero (x : BitVec 8) :
    (x.extractLsb' 5 3 = 0 → (x.extractLsb' 0 5).setWidth 8 = x) ∧
    (x.extractLsb' 3 5 = 0 → (x.extractLsb' 0 3).setWidth 8 = x) ∧
    (x.extractLsb' 4 4 = 0 → (x.extractLsb' 0 4).setWidth 8 = x) := by
  revert x; decide

theorem decodePlain_ok {cmd : Word} {i j : Instr} (h : decodePlain cmd j = .ok i) : i = j ∧ idxField cmd = 0 := by
  unfold decodePlain at h
  split at h
  · cases h; exact ⟨rfl, ‹_›⟩
  · cases h

theorem decodeHdrIndex_ok {cmd : Word} {i : Instr} {make : BitVec 5 → Instr} (h : decodeHdrIndex cmd make = .ok i) :
    ∃ w : BitVec 5, i = make w ∧ idxField cmd = w.setWidth 8 := by
  unfold decodeHdrIndex at h
  split at h
  · cases h; exact ⟨_, rfl, ((setWidth_of_upper_zero _).1 ‹_›).symm⟩
  · cases h

theorem decodeTgtIndex_ok {cmd : Word} {i : Instr} {make : BitVec 3 → Instr} (h : decodeTgtIndex cmd make = .ok i) :
    ∃ k : BitVec 3, i = make k ∧ idxField cmd = k.setWidth 8 := by
  unfold decodeTgtIndex at h
  split at h
  · cases h; exact ⟨_, rfl, ((setWidth_of_upper_zero _).2.1 ‹_›).symm⟩
  · cases h

theorem decodeInfoIndex_ok {cmd : Word} {i : Instr} {make : BitVec 4 → Instr} (h : decodeInfoIndex cmd make = .ok i) :
    ∃ k : BitVec 4, i = make k ∧ idxField cmd = k.setWidth 8 := by
  unfold decodeInfoIndex at h
  split at h
  · cases h
  · split at h
    · cases h
    · cases h; exact ⟨_, rfl, ((setWidth_of_upper_zero _).2.2 (not_not.1 ‹_›)).symm⟩

/-- What the decoder has checked of an accepted command word: OP is the opcode's number, RSV is zero, IDX the operand
index. -/
theorem fields_of_decode {cmd : Word} {p : List Word} {i : Instr} (h : decode cmd p = .ok i) :
    opField cmd = i.opcode.code ∧ rsvField cmd = 0 ∧ idxField cmd = i.idx := by
  unfold decode at h
  split at h
  · cases h
  rename_i hrsv
  have hrsv : rsvField cmd = 0 := not_not.1 hrsv
  split at h
  case h_3 | h_4 =>
    obtain ⟨w, rfl, hidx⟩ := decodeHdrIndex_ok h
    exact ⟨BitVec.eq_of_toNat_eq ‹_›, hrsv, hidx⟩
  case h_5 =>
    obtain ⟨k, rfl, hidx⟩ := decodeTgtIndex_ok h
    exact ⟨BitVec.eq_of_toNat_eq ‹_›, hrsv, hidx⟩
  case h_14 =>
    obtain ⟨k, rfl, hidx⟩ := decodeInfoIndex_ok h
    exact ⟨BitVec.eq_of_toNat_eq ‹_›, hrsv, hidx⟩
  case h_16 => cases h
  all_goals
    obtain ⟨rfl, hidx⟩ := decodePlain_ok h
    exact ⟨BitVec.eq_of_toNat_eq ‹_›, hrsv, hidx⟩

/-- The decoder accepts a command word only as the command word of the instruction it gives. -/
theorem word_of_decode {cmd : Word} {p : List Word} {i : Instr} (h : decode cmd p = .ok i) : i.word = cmd := by
  obtain ⟨hop, hrsv, hidx⟩ := fields_of_decode h
  rw [Instr.word, ← hop, ← hrsv, ← hidx, fields_of_word]

/-! ### The constants, the order of completion, and the transitions of STATE -/

theorem cfg_of_exec {i : Instr} {s t : State} (hx : exec i s = .next t) : t.cfg = s.cfg := by
  cases exec_cases hx <;> simp

/-- Settles O37: RESET, too, starts again from the configuration it finds (spec/10_state.md R33). -/
theorem constantsNeverChange : Obligations.ConstantsNeverChange := by
  intro s t hstep
  cases step_cases hstep with
  | ran _ _ _ _ _ _ hx _ => simpa using cfg_of_exec hx
  | illegal _ _ _ _ _ => simp [State.takeIllegal]
  | idle _ | laneRan _ _ _ _ _ _ | laneEnded _ _ _ _ _ _ | completed _ _ | failed _ _ => simp

/-- An instruction is held, or takes the head of the queue and answers it once (spec/30_encoding.md R70). -/
theorem queue_of_exec {i : Instr} {s t : State} (hx : exec i s = .next t) :
    t = s ∨ (t.queue = s.queue.tail ∧ ∃ r, t.responses = s.responses ++ [r]) := by
  cases exec_cases hx with
  | held _ => exact .inl rfl
  | rejected _ _ _ _ | answered _ | wroteHdr _ _ _ | wroteTgt _ _ _ | wroteBase _ _ | accepted _ _ _ _ | reset _ _ =>
    exact .inr ⟨by simp, _, by simp; rfl⟩

/-- Settles O40: only the command unit's turn touches the queue and the responses, and there the head is known to be
present. -/
theorem commandsCompleteInOrder : Obligations.CommandsCompleteInOrder := by
  intro s t hstep
  cases step_cases hstep with
  | ran u i s' hq _ _ hx _ =>
    rcases queue_of_exec hx with rfl | ⟨hqueue, r, hr⟩
    · exact .inl ⟨rfl, rfl⟩
    · exact .inr ⟨by rintro he; simp [he] at hq, hqueue, r, hr⟩
  | illegal u _ hq _ _ =>
    exact .inr ⟨by rintro he; simp [he] at hq, by simp [State.takeIllegal], zeros 0, by simp [State.takeIllegal]⟩
  | idle _ | laneRan _ _ _ _ _ _ | laneEnded _ _ _ _ _ _ | completed _ _ | failed _ _ => exact .inl (by simp)

end Sys2Proof.Machine
end

section
namespace Sys2Proof.Machine

/-- Neither the checks nor a hold make a state BUSY. -/
theorem guarded_state_ne_busy {i : Instr} {s t : State} {run : Result} (hs : s.state ≠ .busy)
    (h : guarded i s run = .next t) (hrun : run = .next t → t.state ≠ .busy) : t.state ≠ .busy := by
  rcases guarded_cases i s run with ⟨c, q, _, _, hg⟩ | ⟨_, hg⟩ | ⟨hg, _⟩
  · rw [hg] at h; cases h; simp
  · rw [hg] at h; cases h; exact hs
  · exact hrun (hg ▸ h)

/-- DISPATCH is the only command after which a block that was not BUSY is BUSY (spec/10_state.md R31). -/
theorem state_ne_busy_of_exec {i : Instr} {s t : State} (hx : exec i s = .next t) (hs : s.state ≠ .busy)
    (hi : i.opcode ≠ .dispatch) : t.state ≠ .busy := by
  cases i with
  | dispatch p => exact absurd rfl hi
  | nop _ | hdrUpload _ | hdrWrite _ _ | tgtWrite _ _ | tgtUpload _ | baseWrite _ | templateLoad _ | statusRead _ =>
    exact guarded_state_ne_busy hs hx fun h => by cases h; exact hs
  | hdrRead _ _ | hdrDecode _ | infoRead _ _ =>
    exact guarded_state_ne_busy hs hx fun h => by obtain ⟨_, h⟩ := readWords_next h; cases h; exact hs
  | readback _ =>
    refine guarded_state_ne_busy hs hx fun h => ?_
    split at h
    · cases h; simp
    · obtain ⟨_, h⟩ := readWords_next h; cases h; exact hs
  | hash _ =>
    refine guarded_state_ne_busy hs hx fun h => ?_
    obtain ⟨_, h⟩ := readWords_next h
    obtain ⟨_, h⟩ := readWords_next h
    split at h
    · cases h; simp
    · cases h; exact hs
  | reset _ => exact guarded_state_ne_busy hs hx fun h => by cases h; simp

theorem word_of_opcode_dispatch {i : Instr} (h : i.opcode = .dispatch) : i.word = 0x07000000 := by
  cases i with
  | dispatch p => exact word_dispatch p
  | _ => cases h

theorem word_of_opcode_reset {i : Instr} (h : i.opcode = .reset) : i.word = 0x0E000000 := by
  cases i with
  | reset p => exact word_reset p
  | _ => cases h

/-- What one command can do to STATE. -/
theorem state_of_exec {i : Instr} {s t : State} (hx : exec i s = .next t) :
    t.state = s.state ∨ (s.ready ∧ t.state = .busy ∧ i.opcode = .dispatch) ∨ t.state = .error ∨
    (t.state = .idle ∧ i.opcode = .reset) := by
  cases exec_cases hx with
  | held _ | answered _ | wroteHdr _ _ _ | wroteTgt _ _ _ | wroteBase _ _ => exact .inl rfl
  | rejected c q _ _ => exact .inr (.inr (.inl (by simp)))
  | accepted lc hr _ _ =>
    have hs : s.state ≠ .busy := by rcases hr with hr | hr <;> simp [hr]
    have hi : i.opcode = .dispatch := by_contra fun hi => state_ne_busy_of_exec hx hs hi rfl
    exact .inr (.inl ⟨hr, rfl, hi⟩)
  | reset hi _ => exact .inr (.inr (.inr ⟨rfl, hi⟩))

/-- A STATE that is ERROR after a step was ERROR before it or was entered from another. -/
theorem error_kept_or_entered {s t : State} (h : t.state = .error) :
    t.state = s.state ∨ (s.state ≠ .error ∧ t.state = .error) := by
  by_cases hs : s.state = .error
  · exact .inl (h.trans hs.symm)
  · exact .inr ⟨hs, h⟩

/-- Settles O39: commands change STATE as `state_of_exec` says, and of the other agents only Completion and the failure
change it. -/
theorem stateTransitions : Obligations.StateTransitions := by
  intro s t hstep
  have herror (h : t.state = .error) := error_kept_or_entered (s := s) h
  cases step_cases hstep with
  | ran u i s' hq hd _ hx _ =>
    have hword := word_of_decode hd
    rcases state_of_exec hx with hs | ⟨hr, hs, hi⟩ | hs | ⟨hs, hi⟩
    · exact .inl hs
    · exact .inr (.inl ⟨hr, hs, u, hq, hword ▸ word_of_opcode_dispatch hi⟩)
    · rcases herror hs with h | h
      · exact .inl h
      · exact .inr (.inr (.inr (.inl h)))
    · exact .inr (.inr (.inr (.inr ⟨hs, u, hq, hword ▸ word_of_opcode_reset hi⟩)))
  | illegal u _ _ _ _ =>
    rcases herror (by simp [State.takeIllegal]) with h | h
    · exact .inl h
    · exact .inr (.inr (.inr (.inl h)))
  | failed _ _ =>
    rcases herror (by simp) with h | h
    · exact .inl h
    · exact .inr (.inr (.inr (.inl h)))
  | completed hf hl =>
    by_cases hb : s.state = .busy
    · exact .inr (.inr (.inl ⟨hb, by simp [hb], hf, hl⟩))
    · exact .inl (by simp [hb])
  | idle _ | laneRan _ _ _ _ _ _ | laneEnded _ _ _ _ _ _ => exact .inl rfl

/-! ### How a step ends (spec/10_state.md R30) -/

/-- The buffers are in form and every word of them and BASE has been written. -/
structure EveryWordWritten (s : State) : Prop where
  buffers : Memory.wf s = true
  hdr : allWritten s.hdr = true
  tgt : allWritten s.tgt = true
  out : allWritten s.out = true
  base : s.base.written = true

theorem cellAt_written {buf : Buffer} (h : allWritten buf = true) {i : Nat} (hi : i < buf.length) :
    (cellAt buf i).written = true := by
  rw [cellAt, List.getD_eq_getElem _ _ hi]
  exact List.all_eq_true.1 h _ (List.getElem_mem hi)

theorem allWritten_memRead {buf : Buffer} (h : allWritten buf = true) (i n : Nat) (hi : i + n ≤ buf.length) :
    allWritten (memRead buf i n) = true := by
  induction n generalizing i with
  | zero => rfl
  | succ n ih =>
    have hhead : (cellAt buf i).written = true := cellAt_written h (by omega)
    have htail : allWritten (memRead buf (i + 1) n) = true := ih (i + 1) (by omega)
    simpa [memRead, allWritten, hhead] using htail

theorem EveryWordWritten.header {s : State} (h : EveryWordWritten s) : allWritten (memRead s.hdr 0 32) = true := by
  obtain ⟨hlen, _, _⟩ := (Memory.wf_iff s).1 h.buffers
  exact allWritten_memRead h.hdr 0 32 (by omega)

theorem EveryWordWritten.messageCells {s : State} (h : EveryWordWritten s) (n : Word) :
    allWritten (s.messageCells n) = true :=
  allWritten_memWrite _ 19 [n] h.header

theorem EveryWordWritten.targetCells {s : State} (h : EveryWordWritten s) : allWritten s.targetCells = true := by
  obtain ⟨_, hlen, _⟩ := (Memory.wf_iff s).1 h.buffers
  exact allWritten_memRead h.tgt 0 8 (by omega)

theorem EveryWordWritten.slots {s : State} (h : EveryWordWritten s) :
    allWritten (memRead s.out 0 s.cfg.capacity) = true := by
  obtain ⟨_, _, hlen⟩ := (Memory.wf_iff s).1 h.buffers
  exact allWritten_memRead h.out 0 _ (by omega)

/-- Every index of INFO_READ but the reserved 7 names a written cell then (spec/45_control.md R233). -/
theorem EveryWordWritten.infoCell {s : State} (h : EveryWordWritten s) {k : BitVec 4} (hk : k ≠ 7) :
    (infoCell s k).written = true := by
  unfold Machine.infoCell
  split
  case h_7 => exact h.base
  case h_8 h7 => exact absurd (BitVec.eq_of_toNat_eq h7) hk
  case h_9 =>
    obtain ⟨_, hlen, _⟩ := (Memory.wf_iff s).1 h.buffers
    exact cellAt_written h.tgt (by omega)
  all_goals rfl

/-- A result that is a next state or, unless every word of `s` is written, the model fault; never a refusal. -/
inductive NextOrUnwritten (s : State) : Result → Prop where
  | next (t : State) : NextOrUnwritten s (.next t)
  | unwritten (h : ¬ EveryWordWritten s) : NextOrUnwritten s (.fault .modelUnwrittenRead)

theorem NextOrUnwritten.readWords {s : State} {cells : List Cell} {use : List Word → Result}
    (hcells : EveryWordWritten s → allWritten cells = true) (huse : ∀ ws, NextOrUnwritten s (use ws)) :
    NextOrUnwritten s (readWords cells use) := by
  cases hw : allWritten cells
  · rw [readWords_of_unwritten hw]
    exact .unwritten fun h => by simp [hcells h] at hw
  · rw [readWords_of_written hw]
    exact huse _

theorem NextOrUnwritten.guarded {s : State} {i : Instr} {run : Result}
    (hrun : i.indexLegal = true → NextOrUnwritten s run) : NextOrUnwritten s (guarded i s run) := by
  rcases guarded_cases i s run with ⟨c, q, _, _, hg⟩ | ⟨_, hg⟩ | ⟨hg, _, hi, _⟩ <;> rw [hg]
  · exact .next _
  · exact .next _
  · exact hrun hi

/-- How an instruction ends: what each of the six reading commands reads is written when every word is. -/
theorem exec_nextOrUnwritten (i : Instr) (s : State) : NextOrUnwritten s (exec i s) := by
  cases i with
  | nop _ | hdrUpload _ | hdrWrite _ _ | tgtWrite _ _ | tgtUpload _ | baseWrite _ | templateLoad _ | statusRead _
  | reset _ => exact .guarded fun _ => .next _
  | hdrRead w _ =>
    refine .guarded fun _ => .readWords (fun h => allWritten_memRead h.hdr _ _ ?_) fun _ => .next _
    obtain ⟨hlen, _, _⟩ := (Memory.wf_iff s).1 h.buffers
    omega
  | hdrDecode _ => exact .guarded fun _ => .readWords (fun h => h.header) fun _ => .next _
  | infoRead k _ =>
    refine .guarded fun hi => .readWords (fun h => ?_) fun _ => .next _
    simpa [allWritten] using h.infoCell (of_decide_eq_true hi)
  | dispatch _ =>
    refine .guarded fun _ => ?_
    split
    · exact .next _
    · exact .readWords (fun h => h.messageCells _) fun _ => .readWords (fun h => h.targetCells) fun _ =>
        .readWords (fun h => by simp [allWritten, h.base]) fun _ => .next _
  | readback _ =>
    refine .guarded fun _ => ?_
    split
    · exact .next _
    · exact .readWords (fun h => h.slots) fun _ => .next _
  | hash _ =>
    refine .guarded fun _ => .readWords (fun h => h.messageCells _) fun _ =>
      .readWords (fun h => h.targetCells) fun _ => ?_
    split
    · exact .next _
    · exact .next _

theorem agentTurn_nextOrUnwritten (a : Agent) (s : State) : NextOrUnwritten s (agentTurn exec a s) := by
  cases a with
  | lane _ | completion | deviceFailure => exact .next _
  | commandUnit =>
    show NextOrUnwritten s (commandUnitTurn exec s)
    unfold commandUnitTurn
    split
    · exact .next _
    · split
      · exact exec_nextOrUnwritten _ s
      · exact .next _

theorem step_nextOrUnwritten (s : State) : NextOrUnwritten s (step s) := by
  unfold step
  split
  · exact .next _
  · rename_i a _
    have hturn := agentTurn_nextOrUnwritten a s
    generalize agentTurn exec a s = r at hturn ⊢
    cases hturn with
    | next t => exact .next _
    | unwritten h => exact .unwritten h

/-- Settles O43, from `step_nextOrUnwritten`, which says both halves at once. -/
theorem stepsComplete : Obligations.StepsComplete := by
  refine ⟨fun s r hr => ?_, fun s hbuf hhdr htgt hout hbase => ?_⟩ <;> have hstep := step_nextOrUnwritten s
  · rw [hr] at hstep; cases hstep
  · generalize step s = r at hstep ⊢
    cases hstep with
    | next t => exact ⟨t, rfl⟩
    | unwritten h => exact absurd ⟨hbuf, hhdr, htgt, hout, hbase⟩ h

end Sys2Proof.Machine
end

section
namespace Sys2Proof.Machine

/-- A read of an unwritten cell, or a later one, stops with the model fault whatever would be done with the words. -/
theorem readWords_eq_fault {cells : List Cell} {use : List Word → Result}
    (h : allWritten cells = true → use (cellWords cells) = .fault .modelUnwrittenRead) :
    readWords cells use = .fault .modelUnwrittenRead := by
  cases hw : allWritten cells
  · exact readWords_of_unwritten hw use
  · rw [readWords_of_written hw, h hw]

/-- Settles O29: the checks let the command run, and its reads in their order find an unwritten cell. -/
theorem unwrittenReadsFault : Obligations.UnwrittenReadsFault := by
  intro s hr _
  constructor
  · intro lc hc hin
    have hrun : exec (.dispatch [lc]) s = _ := guarded_ready _ hr rfl nofun
    rw [hrun, if_neg (by simpa [payloadWord] using hc)]
    refine readWords_eq_fault fun hm => readWords_eq_fault fun ht => readWords_of_unwritten ?_ _
    have hb : s.base.written = false := by simpa only [State.inputsWritten, hm, ht, Bool.true_and] using hin
    simp [allWritten, hb]
  · intro n hin
    have hrun : exec (.hash [n]) s = _ := guarded_ready _ hr rfl nofun
    rw [hrun]
    refine readWords_eq_fault fun hm => readWords_of_unwritten ?_ _
    have hm : allWritten (s.messageCells n) = true := hm
    simpa [hm] using hin

/-! ### The STATUS word, the step of the command unit, and reset -/

/-- STATUS as a number: ERRCODE in the second byte, STATE in the lowest bits (spec/10_state.md R29). -/
theorem statusWord_toNat (s : State) :
    s.statusWord.toNat = s.errcode.bits.toNat * 256 + s.state.bits.toNat := by
  have hstate := s.state.bits.isLt
  simp only [State.statusWord, BitVec.toNat_append]
  rw [← Nat.shiftLeft_add_eq_or_of_lt (by omega), ← Nat.shiftLeft_add_eq_or_of_lt (by omega)]
  simp [Nat.shiftLeft_eq]
  omega

/-- Settles O6: the fields are the digits of `statusWord_toNat`. -/
theorem statusWordLayout : Obligations.StatusWordLayout := by
  intro s
  have hstate := s.state.bits.isLt
  have hcode := s.errcode.bits.isLt
  rw [statusWord_toNat]
  refine ⟨?_, by omega, ?_, by omega⟩
  · have hfield : (s.errcode.bits.toNat * 256 + s.state.bits.toNat) % 4 = s.state.bits.toNat := by omega
    rw [hfield]
    cases s.state <;> rfl
  · have hfield : (s.errcode.bits.toNat * 256 + s.state.bits.toNat) / 256 % 256 = s.errcode.bits.toNat := by omega
    rw [hfield]
    cases s.errcode <;> rfl

/-- With nothing in flight the command unit is the only agent, and it moves when it has a command that is not held
(spec/10_state.md R21). -/
theorem scheduled_of_not_inflight {s : State} (hf : s.inflight = false) (hq : s.queue ≠ [])
    (hh : s.headHolds = false) : s.scheduled = some .commandUnit := by
  have hm : s.commandUnitMoves = true := (commandUnitMoves_iff s).2 ⟨hq, hh, by simp [hf]⟩
  simp [State.scheduled, State.enabledAgents, hm, hf, pickAgent]

/-- Settles O44: in either case the command unit is the agent that moves. -/
theorem stepRunsDecodedInstruction : Obligations.StepRunsDecodedInstruction := by
  intro s u rest i hq hd hh hturn
  have hsched : s.scheduled = some .commandUnit := by
    rcases hturn with hf | hs
    · exact scheduled_of_not_inflight hf (by simp [hq]) hh
    · exact hs
  simp [step, hsched, agentTurn, commandUnitTurn, hq, hd]

/-- CAP and G of this hardware are in their range (spec/00_scope.md R6). -/
theorem config_build_wf : Config.build.wf = true := by
  have hcap := Config.capacityPred.isLt
  have hgroup := Config.laneGroupPred.isLt
  simp only [Config.wf, Bool.and_eq_true, decide_eq_true_eq]
  simp only [Config.build]
  omega

/-- Settles O45: with nothing in flight `DispatchSound` asks for nothing. -/
theorem legalAtReset : Obligations.LegalAtReset :=
  ⟨legal_resetOf config_build_wf, ⟨nofun, nofun⟩⟩

end Sys2Proof.Machine
end

/-! ## The family of spec/20_memory.md: what reading commands leave alone, repeated reads, frozen inputs -/

section
namespace Sys2Proof.Machine

/-! ### The frame of the reading commands (spec/20_memory.md R56) -/

theorem dispatchKept_reject (s : State) (c : ErrorCode) (w : Word) (q : Nat) : DispatchKept s (s.reject c w q) := by
  simp [DispatchKept]

/-- In ERROR the first error stands; elsewhere the error names the command that raised it (spec/60_exceptions.md R252). -/
theorem errorRegistersKept_reject (i : Instr) (s : State) {c : ErrorCode} (hc : c ≠ .none) (q : Nat) :
    ErrorRegistersKept i s (s.reject c i.word q) := by
  by_cases he : s.state = .error
  · rw [State.reject_of_error he]
    exact .inl ⟨rfl, rfl, rfl⟩
  · rw [State.reject_of_ne he]
    exact .inr ⟨he, rfl, hc, rfl⟩

/-- The next states of a command that only reads. Well formed, only READBACK and HASH can raise an error; any other is then
rejected only where STATE is ERROR already. -/
inductive ReadingCase (i : Instr) (s : State) : State → Prop where
  | held : ReadingCase i s s
  | answered (r : List Word) : ReadingCase i s (s.answered r)
  | rejected (c : ErrorCode) (q : Nat) (hc : c ≠ .none)
      (hs : i.wellFormed = true → i.opcode ∉ [.readback, .hash] → s.state = .error) :
      ReadingCase i s (s.reject c i.word q)

/-- Outside ERROR the checks let a well-formed command that BUSY does not refuse wait or run. -/
theorem ReadingCase.of_guarded {i : Instr} {s t : State} {run : Result} (h : guarded i s run = .next t)
    (hb : refusedWhileBusy i.opcode = false) (hrun : run = .next t → ReadingCase i s t) : ReadingCase i s t := by
  by_cases hw : i.wellFormed = true ∧ s.state ≠ .error
  · obtain ⟨hw, he⟩ := hw
    cases hh : holds i.opcode s
    · exact hrun (guarded_run run (absurd · he) hw (fun _ => hb) hh ▸ h)
    · rw [guarded_hold run hw (absurd · he) (fun _ => hb) hh] at h
      cases h; exact .held
  · rcases guarded_cases i s run with ⟨c, q, hc, _, hg⟩ | ⟨_, hg⟩ | ⟨hg, _⟩
    · rw [hg] at h; cases h
      exact .rejected c q hc fun hwf _ => by_contra fun he => hw ⟨hwf, he⟩
    · rw [hg] at h; cases h; exact .held
    · exact hrun (hg ▸ h)

theorem readingCase_of_exec {i : Instr} {s t : State}
    (hi : i.opcode ∈ [.nop, .hdrRead, .hdrDecode, .statusRead, .infoRead, .readback, .hash])
    (hx : exec i s = .next t) : ReadingCase i s t := by
  cases i with
  | nop _ | statusRead _ => exact .of_guarded hx rfl fun h => by cases h; exact .answered _
  | hdrRead _ _ | hdrDecode _ | infoRead _ _ =>
    exact .of_guarded hx rfl fun h => by obtain ⟨_, h⟩ := readWords_next h; cases h; exact .answered _
  | readback _ =>
    refine .of_guarded hx rfl fun h => ?_
    split at h
    · cases h; exact .rejected _ _ nofun fun _ hn => absurd (by simp [Instr.opcode]) hn
    · obtain ⟨_, h⟩ := readWords_next h; cases h; exact .answered _
  | hash _ =>
    refine .of_guarded hx rfl fun h => ?_
    obtain ⟨_, h⟩ := readWords_next h
    obtain ⟨_, h⟩ := readWords_next h
    split at h
    · cases h; exact .rejected _ _ nofun fun _ hn => absurd (by simp [Instr.opcode]) hn
    · cases h; exact .answered _
  | hdrUpload _ | hdrWrite _ _ | tgtWrite _ _ | tgtUpload _ | baseWrite _ | dispatch _ | templateLoad _ | reset _ =>
    simp [Instr.opcode] at hi

/-- Settles O35: a reading command waits, answers or is rejected, and none of the three writes a buffer. -/
theorem readingCommandsFrame : Obligations.ReadingCommandsFrame := by
  intro i s t hi hx
  cases readingCase_of_exec hi hx with
  | held | answered _ =>
    exact ⟨rfl, rfl, rfl, ⟨rfl, rfl, rfl, rfl, rfl, rfl, rfl, rfl, rfl⟩, .inl ⟨rfl, rfl, rfl⟩, fun _ _ => rfl⟩
  | rejected c q hc hs =>
    exact ⟨by simp, by simp, by simp, dispatchKept_reject .., errorRegistersKept_reject i s hc q,
      fun hw hn => by simp [hs hw hn]⟩

/-! ### A read repeated (spec/20_memory.md R56) -/

/-- Where `run` only answers, run again right after it gives the same answer. -/
def RepeatsAnswer (run : State → Result) : Prop :=
  ∀ (s : State) (r : List Word), run s = .next (s.answered r) →
    run (s.answered r) = .next ((s.answered r).answered r)

/-- An answer shows in the response log. -/
theorem State.answered_ne_self (s : State) (r : List Word) : s ≠ s.answered r := fun h => by
  simpa using congrArg State.responses h

theorem State.answered_injective (s : State) : Function.Injective s.answered := fun r r' h => by
  simpa using congrArg State.responses h

/-- A rejection that only answers is a discard in ERROR. -/
theorem State.reject_eq_answered {s : State} {c : ErrorCode} {w : Word} {q : Nat} {r : List Word}
    (h : s.reject c w q = s.answered r) : s.state = .error ∧ r = List.replicate q 0 := by
  have he : s.state = .error := by simpa using (congrArg State.state h).symm
  rw [State.reject_of_error he] at h
  exact ⟨he, (s.answered_injective h).symm⟩

/-- A held command answers nothing. -/
theorem RepeatsAnswer.held : RepeatsAnswer fun s => .next s := fun s r h =>
  absurd (Host.Outcome.next.inj h) (s.answered_ne_self r)

/-- The words returned do not depend on the queue or the response log. -/
theorem RepeatsAnswer.complete {f : State → List Word} (hf : ∀ s r, f (s.answered r) = f s) :
    RepeatsAnswer fun s => .next (s.complete (f s)) := fun s r h => by
  obtain rfl : f s = r := s.answered_injective (Host.Outcome.next.inj h)
  simp only [hf, State.complete_eq_answered]

theorem RepeatsAnswer.reject (c : ErrorCode) (w : Word) {q : State → Nat} (hq : ∀ s r, q (s.answered r) = q s) :
    RepeatsAnswer fun s => .next (s.reject c w (q s)) := fun s r h => by
  obtain ⟨he, rfl⟩ := State.reject_eq_answered (Host.Outcome.next.inj h)
  simp only [hq, State.reject_of_error (s := s.answered _) he]

theorem RepeatsAnswer.ite {p : State → Prop} [∀ s, Decidable (p s)] {run run' : State → Result}
    (hp : ∀ s r, p (s.answered r) ↔ p s) (h : RepeatsAnswer run) (h' : RepeatsAnswer run') :
    RepeatsAnswer fun s => if p s then run s else run' s := fun s r hs => by
  by_cases hc : p s
  · simp only [hp, if_pos hc] at hs ⊢; exact h s r hs
  · simp only [hp, if_neg hc] at hs ⊢; exact h' s r hs

theorem RepeatsAnswer.readWords {cells : State → List Cell} (hcells : ∀ s r, cells (s.answered r) = cells s)
    (f : List Word → List Word) :
    RepeatsAnswer fun s => readWords (cells s) fun w => .next (s.complete (f w)) := fun s r h => by
  obtain ⟨hw, h⟩ := readWords_next h
  obtain rfl : f (cellWords (cells s)) = r := s.answered_injective (Host.Outcome.next.inj h)
  simp only [hcells, readWords_of_written hw, State.complete_eq_answered]

/-- Whether a command waits is a matter of STATE and INFLIGHT. -/
@[simp] theorem holds_answered (op : Opcode) (s : State) (r : List Word) : holds op (s.answered r) = holds op s := by
  cases op <;> rfl

/-- The checks see neither the queue nor the response log. -/
theorem RepeatsAnswer.guarded (i : Instr) {run : State → Result} (h : RepeatsAnswer run) :
    RepeatsAnswer fun s => guarded i s (run s) :=
  .ite (fun _ _ => .rfl) (.complete fun _ _ => rfl) <|
  .ite (fun _ _ => .rfl) (.reject .illegalCmd i.word fun _ _ => rfl) <|
  .ite (fun _ _ => .rfl) (.reject .payload i.word fun _ _ => rfl) <|
  .ite (fun _ _ => .rfl) (.reject .busyHazard i.word fun _ _ => rfl) <|
  .ite (fun s r => by rw [holds_answered]) .held h

/-- Settles O36: what each of the five reads returns does not depend on the queue or the response log. -/
theorem readsAreIdempotent : Obligations.ReadsAreIdempotent := by
  intro i s r hi
  suffices h : RepeatsAnswer (exec i) from h s r
  cases i with
  | hdrRead w p => exact .guarded (.hdrRead w p) (.readWords (fun _ _ => rfl) id)
  | hdrDecode p => exact .guarded (.hdrDecode p) (.readWords (fun _ _ => rfl) fun w => decodeResponse (decodeHeader w))
  | statusRead p => exact .guarded (.statusRead p) (.complete fun _ _ => rfl)
  | infoRead k p => exact .guarded (.infoRead k p) (.readWords (fun _ _ => rfl) id)
  | readback p =>
    exact .guarded (.readback p) (.ite (fun _ _ => .rfl) (.reject .device _ fun _ _ => rfl)
      (.readWords (fun _ _ => rfl) id))
  | nop _ | hdrUpload _ | hdrWrite _ _ | tgtWrite _ _ | tgtUpload _ | baseWrite _ | dispatch _ | templateLoad _
  | hash _ | reset _ => simp [Instr.opcode] at hi

/-! ### The inputs of a dispatch in flight (spec/20_memory.md R59) -/

/-- The commands that write HDR, TGT or BASE, DISPATCH and RESET run only with nothing in flight. -/
theorem inputs_of_exec {i : Instr} {s t : State} (h : Legal s) (hf : s.inflight = true) (hx : exec i s = .next t) :
    t.hdr = s.hdr ∧ t.tgt = s.tgt ∧ t.base = s.base ∧ t.lc = s.lc := by
  cases exec_cases hx with
  | held _ | rejected _ _ _ _ | answered _ => simp
  | wroteHdr _ _ hr | wroteTgt _ _ hr | wroteBase _ hr | accepted _ hr _ _ =>
    exact absurd hf (by simp [h.inflight_of_ready hr])
  | reset _ hn => exact absurd hf (by simp [hn])

/-- Settles O38: the command unit keeps the inputs by `inputs_of_exec`, and no other agent writes them. -/
theorem inputsAreFrozenInFlight : Obligations.InputsAreFrozenInFlight := by
  intro s t h hf hstep
  cases step_cases hstep with
  | ran _ _ _ _ _ _ hx _ => simpa using inputs_of_exec h hf hx
  | illegal _ _ _ _ _ => simp [State.takeIllegal]
  | idle _ | laneRan _ _ _ _ _ _ | laneEnded _ _ _ _ _ _ | completed _ _ | failed _ _ => simp

end Sys2Proof.Machine
end

/-! ## The family of spec/30_encoding.md: the decoder against the encoder, the illegal words, and the response length -/

section
namespace Sys2Proof.Machine

/-! ### Each index decoder: what it accepts, and what it refuses (spec/30_encoding.md R73) -/

theorem decodePlain_of_idx {cmd : Word} (h : idxField cmd = 0) (i : Instr) : decodePlain cmd i = .ok i := if_pos h

/-- The lower bits of a zero-extended operand index are the index, and the bits above them are zero. -/
theorem extract_of_setWidth :
    (∀ w : BitVec 5, (w.setWidth 8).extractLsb' 5 3 = 0 ∧ (w.setWidth 8).extractLsb' 0 5 = w) ∧
    (∀ k : BitVec 3, (k.setWidth 8).extractLsb' 3 5 = 0 ∧ (k.setWidth 8).extractLsb' 0 3 = k) ∧
    (∀ k : BitVec 4, (k.setWidth 8).extractLsb' 4 4 = 0 ∧ (k.setWidth 8).extractLsb' 0 4 = k) := by
  decide

theorem decodeHdrIndex_of_idx {cmd : Word} {w : BitVec 5} (h : idxField cmd = w.setWidth 8) (make : BitVec 5 → Instr) :
    decodeHdrIndex cmd make = .ok (make w) := by
  obtain ⟨hupper, hlower⟩ := extract_of_setWidth.1 w
  rw [decodeHdrIndex, h, if_pos hupper, hlower]

theorem decodeTgtIndex_of_idx {cmd : Word} {k : BitVec 3} (h : idxField cmd = k.setWidth 8) (make : BitVec 3 → Instr) :
    decodeTgtIndex cmd make = .ok (make k) := by
  obtain ⟨hupper, hlower⟩ := extract_of_setWidth.2.1 k
  rw [decodeTgtIndex, h, if_pos hupper, hlower]

/-- The reserved index is the same index in the IDX field and in INFO_READ's operand (R73). -/
theorem setWidth_eq_seven_iff : ∀ k : BitVec 4, k.setWidth 8 = 7#8 ↔ k = 7 := by
  decide

theorem decodeInfoIndex_of_idx {cmd : Word} {k : BitVec 4} (h : idxField cmd = k.setWidth 8) (hk : k ≠ 7)
    (make : BitVec 4 → Instr) : decodeInfoIndex cmd make = .ok (make k) := by
  obtain ⟨hupper, hlower⟩ := extract_of_setWidth.2.2 k
  have h7 : k.setWidth 8 ≠ 7 := fun he => hk ((setWidth_eq_seven_iff k).1 he)
  rw [decodeInfoIndex, h, if_neg (not_not.2 hupper), if_neg h7, hlower]

/-- The decoder accepts the fields of any instruction with a legal index: the converse of `fields_of_decode`. -/
theorem decode_of_fields {cmd : Word} {i : Instr} (hop : opField cmd = i.opcode.code) (hrsv : rsvField cmd = 0)
    (hidx : idxField cmd = i.idx) (hlegal : i.indexLegal = true) : decode cmd i.payload = .ok i := by
  rw [decode, if_neg (not_not.2 hrsv), hop]
  cases i with
  | hdrWrite _ _ | hdrRead _ _ => exact decodeHdrIndex_of_idx hidx _
  | tgtWrite _ _ => exact decodeTgtIndex_of_idx hidx _
  | infoRead _ _ => exact decodeInfoIndex_of_idx hidx (of_decide_eq_true hlegal) _
  | nop _ | hdrUpload _ | tgtUpload _ | baseWrite _ | dispatch _ | readback _ | templateLoad _ | hdrDecode _ | hash _
  | statusRead _ | reset _ => exact decodePlain_of_idx hidx _

/-- Settles O1: the command word has the instruction's fields, and from them the decoder gives it back. -/
theorem decodeOfEncode : Obligations.DecodeOfEncode := by
  intro i hwf
  obtain ⟨hop, hrsv, hidx⟩ := Laws.WordFields.all i
  obtain ⟨hlegal, _⟩ := Bool.and_eq_true_iff.1 hwf
  exact decode_of_fields hop hrsv hidx hlegal

theorem idx_ne_seven_of_decodeInfoIndex {cmd : Word} {i : Instr} {make : BitVec 4 → Instr}
    (h : decodeInfoIndex cmd make = .ok i) : idxField cmd ≠ 7 := by
  intro h7
  unfold decodeInfoIndex at h
  rw [if_pos h7] at h
  split at h <;> cases h

/-- An accepted instruction carries the payload it was sent with and does not name the reserved index. -/
theorem payload_indexLegal_of_decode {cmd : Word} {p : List Word} {i : Instr} (h : decode cmd p = .ok i) :
    i.payload = p ∧ i.indexLegal = true := by
  unfold decode at h
  split at h
  · cases h
  split at h
  case h_3 | h_4 =>
    obtain ⟨w, rfl, _⟩ := decodeHdrIndex_ok h
    exact ⟨rfl, rfl⟩
  case h_5 =>
    obtain ⟨k, rfl, _⟩ := decodeTgtIndex_ok h
    exact ⟨rfl, rfl⟩
  case h_14 =>
    have h7 := idx_ne_seven_of_decodeInfoIndex h
    obtain ⟨k, rfl, hidx⟩ := decodeInfoIndex_ok h
    exact ⟨rfl, decide_eq_true fun hk => h7 (hidx.trans ((setWidth_eq_seven_iff k).2 hk))⟩
  case h_16 => cases h
  all_goals
    obtain ⟨rfl, _⟩ := decodePlain_ok h
    exact ⟨rfl, rfl⟩

/-- Settles O2: `word_of_decode` gives the command word, `payload_indexLegal_of_decode` the rest. -/
theorem encodeOfDecode : Obligations.EncodeOfDecode := by
  intro cmd p i h
  obtain ⟨hpayload, hlegal⟩ := payload_indexLegal_of_decode h
  exact ⟨by rw [encode, word_of_decode h, hpayload], hlegal⟩

/-! ### The illegal words (spec/30_encoding.md R76) -/

/-- R76 speaks of the bits of IDX outside those the opcode uses; the obligation says it by the value of IDX. -/
theorem upper_zero_iff (x : BitVec 8) :
    (x.extractLsb' 5 3 = 0 ↔ x.toNat < 32) ∧ (x.extractLsb' 3 5 = 0 ↔ x.toNat < 8) ∧
    (x.extractLsb' 4 4 = 0 ↔ x.toNat < 16) := by
  revert x; decide

/-- A decoder of one check refuses where the check fails. -/
theorem ite_ok_refuses_iff {c : Prop} [Decidable c] (i : Instr) (e : DecodeError) :
    (∃ e', (if c then .ok i else .error e : Except DecodeError Instr) = .error e') ↔ ¬ c := by
  split <;> simp [*]

theorem decodePlain_refuses_iff (cmd : Word) (i : Instr) :
    (∃ e, decodePlain cmd i = .error e) ↔ (idxField cmd).toNat ≠ 0 :=
  (ite_ok_refuses_iff ..).trans (BitVec.toNat_inj (y := 0#8)).not.symm

theorem decodeHdrIndex_refuses_iff (cmd : Word) (make : BitVec 5 → Instr) :
    (∃ e, decodeHdrIndex cmd make = .error e) ↔ 32 ≤ (idxField cmd).toNat :=
  (ite_ok_refuses_iff ..).trans ((upper_zero_iff _).1.not.trans not_lt)

theorem decodeTgtIndex_refuses_iff (cmd : Word) (make : BitVec 3 → Instr) :
    (∃ e, decodeTgtIndex cmd make = .error e) ↔ 8 ≤ (idxField cmd).toNat :=
  (ite_ok_refuses_iff ..).trans ((upper_zero_iff _).2.1.not.trans not_lt)

theorem decodeInfoIndex_refuses_iff (cmd : Word) (make : BitVec 4 → Instr) :
    (∃ e, decodeInfoIndex cmd make = .error e) ↔ 16 ≤ (idxField cmd).toNat ∨ (idxField cmd).toNat = 7 := by
  have hupper : (idxField cmd).extractLsb' 4 4 ≠ 0 ↔ 16 ≤ (idxField cmd).toNat :=
    (upper_zero_iff _).2.2.not.trans not_lt
  have h7 : idxField cmd = 7 ↔ (idxField cmd).toNat = 7 := (BitVec.toNat_inj (y := 7#8)).symm
  unfold decodeInfoIndex
  rw [← hupper, ← h7]
  split
  · exact iff_of_true ⟨_, rfl⟩ (.inl ‹_›)
  · rw [or_iff_right ‹_›]
    split
    · exact iff_of_true ⟨_, rfl⟩ ‹_›
    · exact iff_of_false nofun ‹_›

/-- Settles O3: each opcode's index decoder refuses by its own clause of R76, whatever the payload. -/
theorem illegalWordsAreThoseOfR76 : Obligations.IllegalWordsAreThoseOfR76 := by
  intro cmd
  refine Iff.trans (forall_congr' fun p => ?_) (forall_const (List Word))
  unfold decode
  split
  · exact iff_of_true ⟨_, rfl⟩ (.inr (.inl ‹_›))
  rename_i hrsv
  have hrsv : rsvField cmd = 0 := not_not.1 hrsv
  split
  case h_3 hop | h_4 hop => simp [hop, hrsv, decodeHdrIndex_refuses_iff]
  case h_5 hop => simp [hop, hrsv, decodeTgtIndex_refuses_iff]
  case h_14 hop => simp [hop, hrsv, decodeInfoIndex_refuses_iff]
  case h_16 =>
    simp only [imp_false] at *
    exact iff_of_true ⟨_, rfl⟩ (.inl (by omega))
  all_goals
    rename_i hop
    simp [hop, hrsv, decodePlain_refuses_iff]

/-! ### The number of response words (spec/30_encoding.md R74) -/

/-- From `s` to `t` one transaction is answered, with q words. -/
def AnswersWith (q : Nat) (s t : State) : Prop :=
  ∃ r, r.length = q ∧ t.responses = s.responses ++ [r]

theorem AnswersWith.complete {q : Nat} (s : State) {r : List Word} (h : r.length = q) :
    AnswersWith q s (s.complete r) := ⟨r, h, rfl⟩

theorem AnswersWith.reject (s : State) (c : ErrorCode) (w : Word) (q : Nat) : AnswersWith q s (s.reject c w q) :=
  ⟨zeros q, List.length_replicate, s.reject_responses c w q⟩

/-- A command with a legal index that the checks turn away waits or answers its Q words. -/
theorem AnswersWith.of_guarded {i : Instr} {s t : State} {run : Result} (hi : i.indexLegal = true)
    (h : guarded i s run = .next t) (hrun : run = .next t → AnswersWith (responseWords s.cfg i.opcode) s t) :
    t = s ∨ AnswersWith (responseWords s.cfg i.opcode) s t := by
  simp only [guarded, hi, Bool.true_eq_false, if_false] at h
  split at h
  · cases h; exact .inr (.complete s List.length_replicate)
  · split at h
    · cases h; exact .inr (.reject ..)
    · split at h
      · cases h; exact .inr (.reject ..)
      · split at h
        · cases h; exact .inl rfl
        · exact .inr (hrun h)

@[simp] theorem cellWords_length (cells : List Cell) : (cellWords cells).length = cells.length := List.length_map ..

theorem decodeResponse_length {w : List Word} (h : w.length = 32) : (decodeResponse (decodeHeader w)).length = 21 := by
  simp [decodeResponse, decodeHeader, busForm, slice, h]

/-- Settles O41: past the checks, every command answers as many words as its row of R74 says, READBACK and HASH also where
the environment fails them. -/
theorem commandsReturnQWords : Obligations.CommandsReturnQWords := by
  intro i s t hi hx
  cases i with
  | nop _ | hdrUpload _ | hdrWrite _ _ | tgtWrite _ _ | tgtUpload _ | baseWrite _ | templateLoad _ | statusRead _
  | reset _ => exact AnswersWith.of_guarded hi hx fun h => by cases h; exact ⟨_, rfl, rfl⟩
  | hdrRead _ _ | infoRead _ _ =>
    exact AnswersWith.of_guarded hi hx fun h => by obtain ⟨_, h⟩ := readWords_next h; cases h; exact .complete s rfl
  | hdrDecode _ =>
    refine AnswersWith.of_guarded hi hx fun h => ?_
    obtain ⟨_, h⟩ := readWords_next h
    cases h; exact .complete s (decodeResponse_length (by simp))
  | dispatch _ =>
    refine AnswersWith.of_guarded hi hx fun h => ?_
    split at h
    · cases h; exact .reject ..
    · obtain ⟨_, h⟩ := readWords_next h
      obtain ⟨_, h⟩ := readWords_next h
      obtain ⟨_, h⟩ := readWords_next h
      cases h; exact ⟨[], rfl, rfl⟩
  | readback _ =>
    refine AnswersWith.of_guarded hi hx fun h => ?_
    split at h
    · cases h; exact .reject ..
    · obtain ⟨_, h⟩ := readWords_next h
      cases h; exact .complete s (by simp [responseWords, Instr.opcode])
  | hash _ =>
    refine AnswersWith.of_guarded hi hx fun h => ?_
    obtain ⟨_, h⟩ := readWords_next h
    obtain ⟨_, h⟩ := readWords_next h
    split at h
    · cases h; exact .reject ..
    · cases h; exact .complete s rfl

/-! ### Words written out -/

/-- Settles O4: the decoder runs on the eight words. -/
theorem decodedWordsOfTheTable : Obligations.DecodedWordsOfTheTable := by
  unfold Obligations.DecodedWordsOfTheTable
  decide

end Sys2Proof.Machine
end

/-! ## The family of spec/41_hash_kernel.md: HASH, and the midstate of a dispatch -/

section
namespace Sys2Proof.Machine

/-! ### The midstate (spec/41_hash_kernel.md R117) -/

/-- Word 19 lies in the second block of the message. -/
@[simp] theorem firstBlock_withNonce (m : List Word) (n : Word) : firstBlock (withNonce m n) = firstBlock m :=
  List.take_set_of_le (by decide)

@[simp] theorem midstate_withNonce (m : List Word) (n : Word) : midstate (withNonce m n) = midstate m := by
  rw [midstate, firstBlock_withNonce, midstate]

theorem dsha256_eq_dsha256From (m : List Word) : dsha256 m = dsha256From (midstate m) (secondBlock m) := rfl

/-- Settles O51: only the second block holds the nonce, so `midstate_withNonce` replaces the midstate. -/
theorem midstateIsNonceIndependent : Obligations.MidstateIsNonceIndependent := by
  intro m n
  rw [dsha256_eq_dsha256From, midstate_withNonce]

/-! ### What HASH answers (spec/41_hash_kernel.md R120, R121) -/

/-- Of the words whose OP takes no operand index, one is legal: the one with every other bit 0
(spec/30_encoding.md R73, R76). -/
theorem illegalWord_of_plain_op {cmd : Word} {op : BitVec 8} (hop : opField cmd = op)
    (hplain : op.toNat ∉ [0x02, 0x03, 0x04, 0x0D]) (hne : cmd ≠ op ++ (0 : BitVec 16) ++ (0 : BitVec 8)) :
    IllegalWord cmd := by
  refine (illegalWordsAreThoseOfR76 cmd).2 ?_
  by_cases hrsv : rsvField cmd = 0
  · have hidx : idxField cmd ≠ 0 := fun h => hne (by rw [← hop, ← hrsv, ← h, fields_of_word])
    have hidx : (idxField cmd).toNat ≠ 0 := fun h => hidx (BitVec.eq_of_toNat_eq h)
    exact .inr (.inr (.inr (.inr (.inr ⟨hop ▸ hplain, hidx⟩))))
  · exact .inr (.inl hrsv)

theorem payloadWord_cons_zero (w : Word) (p : List Word) : payloadWord (w :: p) 0 = w := rfl

/-- HASH past the checks, with every word it reads written. -/
theorem exec_hash_of_written {n : Word} {s : State} (hr : s.ready) (hm : allWritten (s.messageCells n) = true)
    (ht : allWritten s.targetCells = true) :
    exec (.hash [n]) s =
      if s.deviceFails = true then .next (s.erred .device 0x0B000000 9)
      else .next (s.answered (hashResponse s.cfg.digestOrder (withNonce s.headerWords n) s.targetWords)) := by
  have he : s.state ≠ .error := by rcases hr with h | h <;> simp [h]
  have hrun : exec (.hash [n]) s = _ := guarded_ready _ hr rfl nofun
  rw [hrun, payloadWord_cons_zero, readWords_of_written hm, readWords_of_written ht, messageCells_words,
    State.reject_of_ne he, word_hash]
  rfl

/-- Settles O20: `exec_hash_of_written` where HASH runs, the laws of `guarded` where it does not. -/
theorem hashReturnsDigestAndPass : Obligations.HashReturnsDigestAndPass := by
  refine ⟨fun p n s => ⟨?runs, ?held, ?discarded, ?payload⟩,
    fun cmd hop hne => illegalWord_of_plain_op hop (by decide) hne⟩
  case runs =>
    rintro hr rfl hm ht
    exact exec_hash_of_written hr hm ht
  case held =>
    intro hb hp
    exact guarded_hold _ (decide_eq_true hp) (by simp [hb]) (fun _ => rfl) (decide_eq_true hb)
  case discarded => exact fun he => guarded_discard _ he rfl
  case payload =>
    intro he hp
    rw [← word_hash p]
    exact guarded_payload _ he rfl hp

/-! ### What HASH does with HDR[19] (spec/41_hash_kernel.md R120) -/

/-- The state with another header buffer. -/
def State.withHdr (h : Buffer) (s : State) : State := { s with hdr := h }

theorem State.complete_withHdr (s : State) (h : Buffer) (r : List Word) :
    (s.withHdr h).complete r = (s.complete r).withHdr h := rfl

theorem State.reject_withHdr (s : State) (h : Buffer) (c : ErrorCode) (w : Word) (q : Nat) :
    (s.withHdr h).reject c w q = (s.reject c w q).withHdr h := by
  by_cases he : s.state = .error
  · rw [State.reject_of_error he, State.reject_of_error (s := s.withHdr h) he]; rfl
  · rw [State.reject_of_ne he, State.reject_of_ne (s := s.withHdr h) he]; rfl

@[simp] theorem holds_withHdr (op : Opcode) (s : State) (h : Buffer) : holds op (s.withHdr h) = holds op s := by
  cases op <;> rfl

theorem mapNext_readWords (f : State → State) (cells : List Cell) (use : List Word → Result) :
    mapNext f (readWords cells use) = readWords cells fun w => mapNext f (use w) := by
  unfold readWords; split <;> rfl

/-- The checks do not look at HDR, and turning a command away does not write it. -/
theorem guarded_withHdr (i : Instr) (s : State) (h : Buffer) (run : Result) :
    guarded i (s.withHdr h) (mapNext (State.withHdr h) run) = mapNext (State.withHdr h) (guarded i s run) := by
  simp only [guarded, State.takeIllegal, apply_ite (mapNext _), mapNext_next, holds_withHdr, State.reject_withHdr,
    State.complete_withHdr]
  rfl

theorem cellAt_set_ne (buf : Buffer) {j k : Nat} (h : k ≠ j) (c : Cell) : cellAt (buf.set k c) j = cellAt buf j := by
  simp [cellAt, List.getD, List.getElem?_set_ne h]

/-- Replacing word k of what was read hides what cell k held. -/
theorem set_memRead_set (buf : Buffer) (k n : Nat) (c d : Cell) :
    (memRead (buf.set k c) 0 n).set k d = (memRead buf 0 n).set k d := by
  apply List.ext_getElem?
  intro j
  by_cases hj : j < n
  · by_cases hk : k = j
    · simp [hk, hj]
    · rw [List.getElem?_set_ne hk, List.getElem?_set_ne hk, memRead_get _ _ _ _ hj, memRead_get _ _ _ _ hj,
        cellAt_set_ne _ (by omega)]
  · simp [hj]

theorem messageCells_withHdr_set (s : State) (n : Word) (c : Cell) :
    (s.withHdr (s.hdr.set 19 c)).messageCells n = s.messageCells n :=
  set_memRead_set s.hdr 19 32 c (Cell.of n)

/-- Settles O21: the checks, the message, the target and both answers are the same, and neither answer writes HDR. -/
theorem hashIgnoresStoredNonce : Obligations.HashIgnoresStoredNonce := by
  intro n c s
  show exec (.hash [n]) (s.withHdr (s.hdr.set 19 c)) = mapNext (State.withHdr (s.hdr.set 19 c)) (exec (.hash [n]) s)
  refine Eq.trans ?_ (guarded_withHdr (.hash [n]) s (s.hdr.set 19 c) _)
  simp only [exec, execHash, mapNext_readWords, apply_ite (mapNext _), mapNext_next, ← State.reject_withHdr,
    ← State.complete_withHdr, messageCells_withHdr_set]
  rfl

end Sys2Proof.Machine
end

/-! ## The family of spec/42_comparator.md: the scan as a numeric comparison, and the order of the digest words -/

section
namespace Sys2Proof.Machine

/-! ### The value of a list of words (spec/00_scope.md R9) -/

/-- Bounding the value of the words after the first one bounds the whole by the first word's successor. -/
theorem bigEndianValue_cons_lt_of_tail {ws : List Word} (h : bigEndianValue ws < 2 ^ (32 * ws.length)) (w : Word) :
    bigEndianValue (w :: ws) < (w.toNat + 1) * 2 ^ (32 * ws.length) := by
  rw [bigEndianValue, Nat.add_one_mul w.toNat]
  exact Nat.add_lt_add_left h _

/-- A list of words is a number in base 2^32 with as many digits as words. -/
theorem bigEndianValue_lt (ws : List Word) : bigEndianValue ws < 2 ^ (32 * ws.length) := by
  induction ws with
  | nil => exact Nat.one_pos
  | cons w ws ih =>
    calc bigEndianValue (w :: ws)
        < (w.toNat + 1) * 2 ^ (32 * ws.length) := bigEndianValue_cons_lt_of_tail ih w
      _ ≤ 2 ^ 32 * 2 ^ (32 * ws.length) := Nat.mul_le_mul_right _ w.isLt
      _ = 2 ^ (32 * (w :: ws).length) := by rw [← pow_add, List.length_cons, Nat.mul_succ, Nat.add_comm]

/-- Between lists of one length a smaller first word decides, whatever follows it. -/
theorem bigEndianValue_cons_lt_cons {v t : Word} {vs ts : List Word} (hlen : vs.length = ts.length) (h : v < t) :
    bigEndianValue (v :: vs) < bigEndianValue (t :: ts) := by
  have hv : v.toNat + 1 ≤ t.toNat := h
  calc bigEndianValue (v :: vs)
      < (v.toNat + 1) * 2 ^ (32 * vs.length) := bigEndianValue_cons_lt_of_tail (bigEndianValue_lt vs) v
    _ ≤ t.toNat * 2 ^ (32 * vs.length) := Nat.mul_le_mul_right _ hv
    _ ≤ bigEndianValue (t :: ts) := by rw [hlen]; exact Nat.le_add_right ..

/-- Between lists of one length an equal first word leaves the comparison to the rest. -/
theorem bigEndianValue_cons_le_cons_iff (w : Word) {vs ts : List Word} (hlen : vs.length = ts.length) :
    bigEndianValue (w :: vs) ≤ bigEndianValue (w :: ts) ↔ bigEndianValue vs ≤ bigEndianValue ts := by
  rw [bigEndianValue, bigEndianValue, hlen, Nat.add_le_add_iff_left]

/-! ### The scan (spec/42_comparator.md R141, R142) -/

theorem cmpTarget_cons_of_gt {v t : Word} (h : t < v) (vs ts : List Word) : cmpTarget (v :: vs) (t :: ts) = false :=
  if_pos h

theorem cmpTarget_cons_of_lt {v t : Word} (h : v < t) (vs ts : List Word) : cmpTarget (v :: vs) (t :: ts) = true := by
  rw [cmpTarget, if_neg (BitVec.lt_asymm h), if_pos h]

@[simp] theorem cmpTarget_cons_self (w : Word) (vs ts : List Word) :
    cmpTarget (w :: vs) (w :: ts) = cmpTarget vs ts := by
  rw [cmpTarget, if_neg (BitVec.lt_irrefl w), if_neg (BitVec.lt_irrefl w)]

/-- The scan compares lists of any one length: at each pair of words it decides by the first unequal one, or goes on. -/
theorem cmpTarget_iff_bigEndianValue_le {v t : List Word} (hlen : v.length = t.length) :
    cmpTarget v t = true ↔ bigEndianValue v ≤ bigEndianValue t := by
  induction v generalizing t with
  | nil =>
    obtain rfl := List.length_eq_zero_iff.1 hlen.symm
    exact iff_of_true rfl le_rfl
  | cons v vs ih =>
    obtain ⟨t, ts, rfl⟩ := List.exists_cons_of_length_eq_add_one hlen.symm
    have htail : vs.length = ts.length := Nat.succ.inj hlen
    rcases BitVec.lt_trichotomy v t with h | rfl | h
    · exact iff_of_true (cmpTarget_cons_of_lt h vs ts) (bigEndianValue_cons_lt_cons htail h).le
    · rw [cmpTarget_cons_self, bigEndianValue_cons_le_cons_iff v htail, ih htail]
    · exact iff_of_false (by rw [cmpTarget_cons_of_gt h]; exact Bool.false_ne_true)
        (bigEndianValue_cons_lt_cons htail.symm h).not_ge

/-- Settles O54: the case of eight words. -/
theorem comparatorIsNumeric : Obligations.ComparatorIsNumeric :=
  fun _ _ hv ht => cmpTarget_iff_bigEndianValue_le (hv.trans ht.symm)

/-! ### The order of the digest words (spec/42_comparator.md R140) -/

/-- Word 7 − i of the BTC view is word i of the digest with its bytes reversed. -/
theorem view_btc_get (s : HashState) {i : Nat} (hi : i < 8) :
    (view .btc s)[7 - i]? = (hashWords s)[i]?.map bswap32 := by
  rw [view, List.getElem?_map, List.getElem?_reverse' (j := i) (by rw [hashWords_length]; omega)]

/-- Settles O55: a word that the digest has stands at an index below 8, where `view_btc_get` applies; the RAW view is the
digest. -/
theorem viewOrdersDigestWords : Obligations.ViewOrdersDigestWords := by
  intro s i w hw
  have hi : i < (hashWords s).length := (List.getElem?_eq_some_iff.1 hw).1
  exact ⟨by rw [view_btc_get s hi, hw, Option.map_some], hw⟩

end Sys2Proof.Machine
end

/-! ## The family of spec/43_search_engine.md: the lanes, the dispatch in flight, the commands, and the host's side -/

section
namespace Sys2Proof.Machine

/-! ### The course of one lane (spec/43_search_engine.md R174, spec/41_hash_kernel.md R110 to R115) -/

/-- A lane is where its compression, its round and its message put it: `LaneOnTrack` but for where the message comes from. -/
structure LaneOnCourse (l : Lane) : Prop where
  round : l.round ≤ 64
  chain : l.chain = compressionStart l.compression (chainedBefore l.compression l.message)
  schedule : l.schedule =
    schedule (compressionBlock l.compression l.message (chainedBefore l.compression l.message))
  work : l.work = shaRounds l.schedule l.round l.chain

theorem laneOnTrack_iff (s : State) (l : Lane) :
    LaneOnTrack s l ↔
      l.nonce = laneNonce s.base.value l.index ∧ l.message = withNonce s.headerWords l.nonce ∧ LaneOnCourse l :=
  ⟨fun h => ⟨h.nonce, h.message, h.round, h.chain, h.schedule, h.work⟩,
    fun ⟨hn, hm, h⟩ => ⟨hn, hm, h.round, h.chain, h.schedule, h.work⟩⟩

/-- Entering a compression with what the one before it leaves. -/
theorem LaneOnCourse.of_entering (l : Lane) (c : Compression) :
    LaneOnCourse (enterCompression l c (chainedBefore c l.message)) :=
  ⟨Nat.zero_le 64, rfl, rfl, rfl⟩

theorem startLane_onCourse (header : List Word) (base : Word) (i : Nat) : LaneOnCourse (startLane header base i) :=
  .of_entering _ .headerFirst

/-- The feed-forward after round 63 ends the compression that the lane is in. -/
theorem LaneOnCourse.feedForward_eq_compress {l : Lane} (h : LaneOnCourse l) (hr : 64 ≤ l.round) :
    feedForward l.chain l.work =
      compress (compressionStart l.compression (chainedBefore l.compression l.message))
        (compressionBlock l.compression l.message (chainedBefore l.compression l.message)) := by
  have hround : l.round = 64 := le_antisymm h.round hr
  rw [h.work, h.schedule, hround, h.chain]
  rfl

/-- A turn that does not end a lane keeps it on its course. -/
theorem LaneOnCourse.of_running {l l' : Lane} (h : LaneOnCourse l) (ht : laneTurn l = .running l') : LaneOnCourse l' := by
  rcases laneTurn_cases l with ⟨hr, e⟩ | ⟨hr, hc, e⟩ | ⟨hr, hc, e⟩ | ⟨_, _, e⟩ <;> rw [e] at ht <;> cases ht
  · refine ⟨hr, h.chain, h.schedule, ?_⟩
    show shaRound l.schedule l.round l.work = shaRound l.schedule l.round (shaRounds l.schedule l.round l.chain)
    rw [h.work]
  · rw [h.feedForward_eq_compress hr, hc]
    exact .of_entering l .headerSecond
  · rw [h.feedForward_eq_compress hr, hc]
    exact .of_entering l .digest

/-- A lane that ends on its course ends with the double SHA-256 of its message. -/
theorem LaneOnCourse.digest_eq {l : Lane} {d : HashState} (h : LaneOnCourse l) (ht : laneTurn l = .finished d) :
    d = dsha256 l.message := by
  rcases laneTurn_cases l with ⟨_, e⟩ | ⟨_, _, e⟩ | ⟨_, _, e⟩ | ⟨hr, hc, e⟩ <;> rw [e] at ht <;> cases ht
  rw [h.feedForward_eq_compress hr, hc]
  rfl

/-- A lane on its course, given the turns it has left, computes the double SHA-256 of its message. -/
theorem LaneOnCourse.runLane_eq {l : Lane} (h : LaneOnCourse l) {n : Nat} (hn : laneWork l ≤ n) :
    runLane n l = some (dsha256 l.message) := by
  induction n generalizing l with
  | zero => exact absurd (laneWork_pos l) (by omega)
  | succ n ih =>
    rw [runLane]
    cases ht : laneTurn l with
    | running l' =>
      have hless := laneWork_turn ht
      obtain ⟨-, -, hmessage⟩ := laneTurn_keeps ht
      rw [← hmessage]
      exact ih (h.of_running ht) (by omega)
    | finished d => rw [h.digest_eq ht]

/-- Settles O50: 195 turns are the work of a lane that starts. -/
theorem laneComputesDoubleSha : Obligations.LaneComputesDoubleSha :=
  fun header base i => (startLane_onCourse header base i).runLane_eq le_rfl

/-- Settles O52: the nonce is a sum of words with one summand fixed, and an index below 2^32 is determined by its word. -/
theorem laneNoncesAreDistinct : Obligations.LaneNoncesAreDistinct := by
  refine ⟨fun header base i => ⟨rfl, rfl⟩, fun base i j hi hj hne heq => hne ?_⟩
  have hword : BitVec.ofNat 32 i = BitVec.ofNat 32 j := (BitVec.add_right_inj base).1 heq
  simpa [Nat.mod_eq_of_lt hi, Nat.mod_eq_of_lt hj] using congrArg BitVec.toNat hword

/-! ### The invariant of a dispatch in flight under each of the state's operations -/

theorem DispatchSound.of_not_inflight {s : State} (hf : s.inflight = false) : DispatchSound s :=
  ⟨fun h => absurd h (by simp [hf]), fun h => absurd h (by simp [hf])⟩

/-- `DispatchSound` speaks of no status field, no queue, no response log and no free value. -/
theorem DispatchSound.withBookkeeping {s : State} (h : DispatchSound s) (st : DevState) (c : ErrorCode) (w : Word)
    (q : List Transaction) (r : List (List Word)) (d n p : Nat) (f : Bool) :
    DispatchSound { s with
      state := st, errcode := c, errcmd := w, queue := q, responses := r, draws := d, turn := n, patience := p,
      fails := f } :=
  ⟨fun hf l hl => (laneOnTrack_iff _ l).2 ((laneOnTrack_iff s l).1 (h.lanes hf l hl)), h.slots⟩

theorem DispatchSound.redraw {s : State} (h : DispatchSound s) (a : Agent) : DispatchSound (s.redraw a) :=
  h.withBookkeeping ..

theorem DispatchSound.answered {s : State} (h : DispatchSound s) (r : List Word) : DispatchSound (s.answered r) :=
  h.withBookkeeping ..

theorem DispatchSound.reject {s : State} (h : DispatchSound s) (c : ErrorCode) (w : Word) (q : Nat) :
    DispatchSound (s.reject c w q) := by
  by_cases he : s.state = .error
  · rw [State.reject_of_error he]; exact h.answered _
  · rw [State.reject_of_ne he]; exact h.withBookkeeping ..

/-- The result of a slot beyond the lane count is the 0 that acceptance wrote (spec/43_search_engine.md R178). -/
theorem State.resultSlot_of_le {s : State} {j : Nat} (h : s.lc.toNat ≤ j) : s.resultSlot j = 0 :=
  if_neg fun ⟨hj, _⟩ => absurd hj (by omega)

/-- The result of a slot below the lane count is what its lane writes (spec/43_search_engine.md R176, R178). -/
theorem State.resultSlot_of_lt {s : State} {j : Nat} (h : j < s.lc.toNat) :
    s.resultSlot j = slotValue (noncePasses s.cfg.digestOrder s.headerWords s.targetWords
      (laneNonce s.base.value j)) (laneNonce s.base.value j) := by
  simp only [State.resultSlot, dispatchSlot, slotValue, h, true_and, ite_and]
  split
  · exact ite_eq_left_iff.2 fun h0 => (not_not.1 h0).symm
  · rfl

/-- Acceptance starts every lane below LC on its course and writes 0 to every slot. -/
theorem DispatchSound.acceptDispatch (s : State) (lc : Word) :
    DispatchSound (s.acceptDispatch (cellWords (s.messageCells 0)) lc) where
  lanes := by
    intro _ l hl
    obtain ⟨i, -, rfl⟩ := List.mem_map.1 hl
    refine (laneOnTrack_iff _ _).2 ⟨rfl, ?_, startLane_onCourse ..⟩
    rw [startLane_message, messageCells_words, withNonce_withNonce]
    rfl
  slots := by
    intro _ j hj
    have hslot : (if j ∈ List.range lc.toNat then 0
        else (s.acceptDispatch (cellWords (s.messageCells 0)) lc).resultSlot j) = 0 :=
      ite_eq_left_iff.2 fun hj => State.resultSlot_of_le (not_lt.1 (mt List.mem_range.2 hj))
    rw [State.acceptDispatch_lanes, map_index_startLanes, hslot, State.acceptDispatch_out]
    exact List.getElem?_replicate_of_lt hj

/-- A lane that goes on under its own index changes no index. -/
theorem map_index_set {ls : List Lane} {k : Nat} {l l' : Lane} (hk : ls[k]? = some l) (hi : l'.index = l.index) :
    (ls.set k l').map Lane.index = ls.map Lane.index := by
  obtain ⟨hlt, rfl⟩ := List.getElem?_eq_some_iff.1 hk
  rw [List.map_set, hi, ← List.getElem_map Lane.index (h := by simpa using hlt), List.set_getElem_self]

/-- A lane that goes on stays on track, under its own index. -/
theorem DispatchSound.setLane {s : State} (h : DispatchSound s) {k : Nat} {l l' : Lane} (hk : s.lanes[k]? = some l)
    (ht : laneTurn l = .running l') : DispatchSound { s with lanes := s.lanes.set k l' } := by
  obtain ⟨hindex, hnonce, hmessage⟩ := laneTurn_keeps ht
  constructor
  case lanes =>
    intro hf m hm
    refine (laneOnTrack_iff _ m).2 ?_
    rcases List.mem_or_eq_of_mem_set hm with hm | rfl
    · exact (laneOnTrack_iff s m).1 (h.lanes hf m hm)
    · obtain ⟨hn, hw, hc⟩ := (laneOnTrack_iff s l).1 (h.lanes hf l (List.mem_of_getElem? hk))
      rw [hindex, hnonce, hmessage]
      exact ⟨hn, hw, hc.of_running ht⟩
  case slots =>
    intro hf j hj
    exact map_index_set hk hindex ▸ h.slots hf j hj

/-- What a lane on track writes at its end is its slot of the dispatch result. -/
theorem writeSlot_eq {s : State} {l : Lane} {d : HashState} (h : LaneOnTrack s l) (hlc : l.index < s.lc.toNat)
    (ht : laneTurn l = .finished d) :
    s.writeSlot l d = s.out.set l.index (Cell.of (s.resultSlot l.index)) := by
  obtain ⟨hnonce, hmessage, hcourse⟩ := (laneOnTrack_iff s l).1 h
  rw [State.writeSlot, memWrite_one, State.resultSlot_of_lt hlc, hcourse.digest_eq ht, hmessage, hnonce]
  rfl

/-- Of lanes with distinct indices, discarding one discards its index and no other. -/
theorem mem_map_index_eraseIdx {ls : List Lane} (hd : (ls.map Lane.index).Nodup) {k : Nat} {l : Lane}
    (hk : ls[k]? = some l) (j : Nat) :
    j ∈ (ls.eraseIdx k).map Lane.index ↔ j ≠ l.index ∧ j ∈ ls.map Lane.index := by
  obtain ⟨hlt, rfl⟩ := List.getElem?_eq_some_iff.1 hk
  have hlt' : k < (ls.map Lane.index).length := by simpa using hlt
  rw [← List.eraseIdx_map, ← hd.erase_getElem k hlt', hd.mem_erase_iff, List.getElem_map]

/-- A lane that ends turns the 0 of its slot into its result and leaves every other slot alone. -/
theorem DispatchSound.endLane {s : State} (h : DispatchSound s) (hl : Legal s) {k : Nat} {l : Lane} {d : HashState}
    (hf : s.inflight = true) (hk : s.lanes[k]? = some l) (ht : laneTurn l = .finished d) :
    DispatchSound { s with lanes := s.lanes.eraseIdx k, out := s.writeSlot l d } := by
  have hmem : l ∈ s.lanes := List.mem_of_getElem? hk
  have hlc : l.index < s.lc.toNat := hl.laneIndexes l hmem
  constructor
  case lanes =>
    intro _ m hm
    exact (laneOnTrack_iff _ m).2 ((laneOnTrack_iff s m).1 (h.lanes hf m (List.mem_of_mem_eraseIdx hm)))
  case slots =>
    intro _ j hj
    have hindex := mem_map_index_eraseIdx (hl.laneDistinct.imp ne_of_lt) hk j
    show (s.writeSlot l d)[j]? =
      some (Cell.of (if j ∈ (s.lanes.eraseIdx k).map Lane.index then 0 else s.resultSlot j))
    rw [writeSlot_eq (h.lanes hf l hmem) hlc ht]
    by_cases hjl : j = l.index
    · subst hjl
      obtain ⟨-, -, hout⟩ := (Memory.wf_iff s).1 hl.buffers
      rw [if_neg fun hin => (hindex.1 hin).1 rfl, List.getElem?_set_self (by rw [hout]; exact hj)]
    · rw [List.getElem?_set_ne (Ne.symm hjl), h.slots hf j hj]
      simp only [hindex, ne_eq, hjl, not_false_eq_true, true_and]

/-- Every instruction keeps the invariant: DISPATCH establishes it, and the others that change an input or a slot run only
with nothing in flight. -/
theorem DispatchSound.of_exec {i : Instr} {s t : State} (h : DispatchSound s) (hl : Legal s)
    (hx : exec i s = .next t) : DispatchSound t := by
  cases exec_cases hx with
  | held _ => exact h
  | rejected c q _ _ => exact h.reject c _ q
  | answered r => exact h.answered r
  | wroteHdr _ _ hr | wroteTgt _ _ hr | wroteBase _ hr => exact .of_not_inflight (hl.inflight_of_ready hr)
  | accepted lc _ _ _ => exact (DispatchSound.acceptDispatch s lc).answered []
  | reset _ _ => exact .of_not_inflight rfl

/-- Settles O47: a lane's turn keeps every lane on track and every slot right, Completion and the failure end the dispatch,
and the command unit keeps the invariant by `DispatchSound.of_exec`. -/
theorem stepKeepsDispatchSound : Obligations.StepKeepsDispatchSound := by
  intro s t hl h hstep
  cases step_cases hstep with
  | idle _ => exact h
  | ran _ _ _ _ _ _ hx _ => exact (h.of_exec hl hx).redraw _
  | illegal u _ _ _ _ => exact (h.reject .illegalCmd u.cmd 0).redraw _
  | laneRan k l l' _ hk ht => exact (h.setLane hk ht).redraw _
  | laneEnded k l d hf hk ht => exact (h.endLane hl hf hk ht).redraw _
  | completed _ _ => exact .of_not_inflight rfl
  | failed _ _ => exact .of_not_inflight (by simp)

/-! ### How a dispatch ends (spec/43_search_engine.md R177 to R179) -/

theorem step_of_scheduled {s : State} {a : Agent} (h : s.scheduled = some a) :
    step s = mapNext (State.redraw a) (agentTurn exec a s) := by
  rw [step, h]

/-- With no lane left OUT is the dispatch result. -/
theorem DispatchSound.out_eq {s : State} (h : DispatchSound s) (hb : s.out.length = s.cfg.capacity)
    (hf : s.inflight = true) (hl : s.lanes = []) :
    s.out = (List.range s.cfg.capacity).map fun j => Cell.of (s.resultSlot j) := by
  refine List.ext_getElem? fun j => ?_
  by_cases hj : j < s.cfg.capacity
  · simp [h.slots hf j hj, hl, hj]
  · rw [List.getElem?_eq_none (by omega), List.getElem?_eq_none (by simp; omega)]

theorem step_of_completion {s : State} (hs : s.scheduled = some .completion) :
    step s = .next (State.redraw .completion
      { s with inflight := false, state := if s.state = .busy then .done else s.state }) := by
  rw [step_of_scheduled hs, agentTurn, State.turnOfCompletion, if_pos (scheduled_completion hs), mapNext_next]

theorem step_of_failure {s : State} (hs : s.scheduled = some .deviceFailure) :
    step s = .next (State.redraw .deviceFailure
      { s.enterError .device dispatchWord with
        inflight := false, lanes := [], out := failedOut s.draws s.cfg.capacity }) := by
  rw [step_of_scheduled hs, agentTurn, State.turnOfFailure, if_pos (scheduled_failure hs), enterError_withDispatch,
    mapNext_next]

/-- Settles O48: Completion moves only with no lane left, where `DispatchSound.out_eq` gives OUT. -/
theorem completionDeliversResult : Obligations.CompletionDeliversResult := by
  intro s hl h hs
  obtain ⟨hf, hlanes⟩ := scheduled_completion hs
  obtain ⟨-, -, hout⟩ := (Memory.wf_iff s).1 hl.buffers
  exact ⟨_, step_of_completion hs, rfl, rfl, h.out_eq hout hf hlanes, rfl, rfl, rfl, rfl⟩

/-- Settles O31: the failure drops the dispatch and enters the error, which in ERROR leaves the first one standing. -/
theorem failedDispatchRaisesDeviceError : Obligations.FailedDispatchRaisesDeviceError := by
  intro s hs
  refine ⟨_, step_of_failure hs, rfl, rfl, s.enterError_state .device dispatchWord, fun he => ?_, fun he => ?_,
    by simp, by simp, by simp, by simp, by simp, by simp⟩
  · rw [State.enterError_of_ne he]
    exact ⟨rfl, rfl⟩
  · rw [State.enterError_of_error he]
    exact ⟨rfl, rfl⟩

end Sys2Proof.Machine
end

section
namespace Sys2Proof.Machine

/-! ### The commands that BUSY refuses: the writers of HDR, TGT and BASE, and DISPATCH (spec/60_exceptions.md R256) -/

/-- They are also the commands that ERROR discards, and they name no reserved index, return no word and never wait. -/
theorem facts_of_refusedWhileBusy {i : Instr} (h : refusedWhileBusy i.opcode = true) :
    executesInError i.opcode = false ∧ i.indexLegal = true ∧ (∀ cfg, responseWords cfg i.opcode = 0) ∧
    ∀ s, holds i.opcode s = false := by
  cases i with
  | hdrUpload _ | hdrWrite _ _ | tgtWrite _ _ | tgtUpload _ | baseWrite _ | dispatch _ | templateLoad _ =>
    exact ⟨rfl, rfl, fun _ => rfl, fun _ => rfl⟩
  | nop _ | hdrRead _ _ | readback _ | hdrDecode _ | hash _ | statusRead _ | infoRead _ _ | reset _ => cases h

/-- How each of them is turned away. -/
theorem writerGuards {i : Instr} {cmd : Word} (hw : i.word = cmd) (hb : refusedWhileBusy i.opcode = true) (s : State) :
    WriterGuards i cmd i.opcode.payloadWords s := by
  obtain ⟨herr, hidx, hq, -⟩ := facts_of_refusedWhileBusy hb
  obtain ⟨run, hrun⟩ := exec_guarded i s
  subst hw
  refine ⟨fun he => ?_, fun he hp => ?_, fun hbusy hp => ?_⟩
  · rw [hrun, guarded_discard run he herr, hq]
  · rw [hrun, guarded_payload run he hidx hp, hq]
  · rw [hrun, guarded_busy run hbusy (by simp [Instr.wellFormed, hidx, hp]) hb, hq]

/-- When one of them answers a next state, it was rejected or it ran in IDLE or DONE. -/
theorem rejected_or_ran {i : Instr} {s t : State} {run : Result} (hb : refusedWhileBusy i.opcode = true)
    (h : guarded i s run = .next t) :
    (∃ c q, c ≠ .none ∧ t = s.reject c i.word q) ∨ (s.ready ∧ run = .next t) := by
  obtain ⟨herr, -, -, hhold⟩ := facts_of_refusedWhileBusy hb
  rcases guarded_cases i s run with ⟨c, q, hc, -, hg⟩ | ⟨hh, -⟩ | ⟨hg, he, -, -, hbusy, -⟩
  · rw [hg] at h; cases h
    exact .inl ⟨c, q, hc, rfl⟩
  · exact absurd hh (by simp [hhold])
  · exact .inr ⟨ready_of_runs herr hb he hbusy, hg ▸ h⟩

theorem state_ne_error_of_ready {s : State} (h : s.ready) : s.state ≠ .error := by
  rcases h with h | h <;> simp [h]

/-! ### Loading the inputs (spec/43_search_engine.md R160 to R164) -/

/-- Settles O11: the payload fills the buffer. -/
theorem hdrUploadWritesAllWords : Obligations.HdrUploadWritesAllWords := by
  intro p s hlen
  refine ⟨fun hr hp => ?_, writerGuards (word_hdrUpload p) rfl s⟩
  have hrun : exec (.hdrUpload p) s = _ := guarded_ready _ hr (decide_eq_true hp) nofun
  rw [hrun, memWrite_all _ _ (hp.trans hlen.symm), State.complete_eq_answered]

/-- Settles O12: one word is written by setting one cell, and the decoder refuses an index that does not fit. -/
theorem hdrWriteWritesOneWord : Obligations.HdrWriteWritesOneWord := by
  refine ⟨fun w p s => ⟨?_, writerGuards (word_hdrWrite w p) rfl s⟩, fun cmd hop hidx => ?_⟩
  · rintro v rfl hr
    exact guarded_ready _ hr rfl nofun
  · exact (illegalWordsAreThoseOfR76 cmd).2 (.inr (.inr (.inl ⟨by simp [hop], hidx⟩)))

/-- Settles O13: as O12, on the target. -/
theorem tgtWriteWritesOneWord : Obligations.TgtWriteWritesOneWord := by
  refine ⟨fun k p s => ⟨?_, writerGuards (word_tgtWrite k p) rfl s⟩, fun cmd hop hidx => ?_⟩
  · rintro v rfl hr
    exact guarded_ready _ hr rfl nofun
  · exact (illegalWordsAreThoseOfR76 cmd).2 (.inr (.inr (.inr (.inl ⟨by simp [hop], hidx⟩))))

/-- Settles O14: the payload fills the buffer. -/
theorem tgtUploadWritesAllWords : Obligations.TgtUploadWritesAllWords := by
  intro p s hlen
  refine ⟨fun hr hp => ?_, writerGuards (word_tgtUpload p) rfl s⟩
  have hrun : exec (.tgtUpload p) s = _ := guarded_ready _ hr (decide_eq_true hp) nofun
  rw [hrun, memWrite_all _ _ (hp.trans hlen.symm), State.complete_eq_answered]

/-- Settles O15: the payload's only word becomes BASE. -/
theorem baseWriteSetsBase : Obligations.BaseWriteSetsBase := by
  refine fun p s => ⟨?_, writerGuards (word_baseWrite p) rfl s⟩
  rintro v rfl hr
  exact guarded_ready _ hr rfl nofun

/-! ### DISPATCH and READBACK (spec/43_search_engine.md R170, R173, R180) -/

/-- Settles O17: within the capacity the three reads find every word written, and the dispatch is accepted. -/
theorem dispatchIsAccepted : Obligations.DispatchIsAccepted := by
  intro lc s hr hcap hin
  simp only [State.inputsWritten, Bool.and_eq_true] at hin
  obtain ⟨⟨hmessage, htarget⟩, hbase⟩ := hin
  have hbase : allWritten [s.base] = true := by simp [allWritten, hbase]
  have hrun : exec (.dispatch [lc]) s = _ := guarded_ready _ hr rfl nofun
  rw [hrun, payloadWord_cons_zero, if_neg (not_lt.2 hcap), readWords_of_written hmessage, readWords_of_written htarget,
    readWords_of_written hbase]
  rfl

/-- Settles O18: the checks of every command that BUSY refuses, then the check of the capacity. -/
theorem dispatchIsTurnedAway : Obligations.DispatchIsTurnedAway := by
  refine ⟨fun p s => writerGuards (word_dispatch p) rfl s, fun lc s hr hcap => ?_⟩
  have hrun : exec (.dispatch [lc]) s = _ := guarded_ready _ hr rfl nofun
  rw [hrun, payloadWord_cons_zero, if_pos hcap, State.reject_of_ne (state_ne_error_of_ready hr), word_dispatch]

/-- READBACK past the checks: the draw, then the read of all of OUT. -/
theorem exec_readback_of_ready {s : State} (hr : s.ready) (hlen : s.out.length = s.cfg.capacity) :
    exec (.readback []) s =
      if s.deviceFails = true then .next (s.erred .device 0x08000000 s.cfg.capacity)
      else readWords s.out fun w => .next (s.answered w) := by
  have hrun : exec (.readback []) s = _ := guarded_ready _ hr rfl nofun
  rw [hrun, State.reject_of_ne (state_ne_error_of_ready hr), word_readback, memRead_all _ _ hlen]
  rfl

/-- Settles O19: `exec_readback_of_ready` where READBACK runs, the laws of `guarded` where it does not. -/
theorem readbackReturnsOut : Obligations.ReadbackReturnsOut := by
  refine ⟨fun p s hlen => ⟨?written, ?unwritten, ?fails, ?held, ?discarded, ?payload⟩,
    fun cmd hop hne => illegalWord_of_plain_op hop (by decide) hne⟩
  case written =>
    rintro hr rfl hfails hwritten
    rw [exec_readback_of_ready hr hlen, State.deviceFails, if_neg (by simp [hfails]), readWords_of_written hwritten]
  case unwritten =>
    rintro hr rfl hfails hwritten
    rw [exec_readback_of_ready hr hlen, State.deviceFails, if_neg (by simp [hfails]), readWords_of_unwritten hwritten]
  case fails =>
    rintro hr rfl hfails
    rw [exec_readback_of_ready hr hlen, State.deviceFails, if_pos hfails]
  case held =>
    intro hb hp
    exact guarded_hold _ (decide_eq_true hp) (by simp [hb]) (fun _ => rfl) (decide_eq_true hb)
  case discarded => exact fun he => guarded_discard _ he rfl
  case payload =>
    intro he hp
    rw [← word_readback p]
    exact guarded_payload _ he rfl hp

/-! ### Frames (spec/10_state.md R20) -/

/-- A field of the state after a command is what it was before, or `new`, and that only without an error. -/
def KeptOrReplaced {α : Type} (t : State) (after before new : α) : Prop :=
  after = before ∨ t.state ≠ .error ∧ after = new

theorem KeptOrReplaced.of_same {α : Type} {t : State} {after before : α} (h : KeptOrReplaced t after before before) :
    after = before := h.elim id And.right

theorem KeptOrReplaced.on_error {α : Type} {t : State} {after before new : α} (h : KeptOrReplaced t after before new)
    (he : t.state = .error) : after = before := h.resolve_right fun ⟨hne, _⟩ => hne he

/-- The write of one word leaves every other word of the buffer alone. -/
theorem KeptOrReplaced.getElem?_of_ne {t : State} {after before : Buffer} {k j : Nat} {c : Cell}
    (h : KeptOrReplaced t after before (before.set k c)) (hj : j ≠ k) : after[j]? = before[j]? := by
  rcases h with h | ⟨-, h⟩
  · rw [h]
  · rw [h, List.getElem?_set_ne hj.symm]

/-- What a command that at most puts `hdr`, `tgt` and `base` in place of the inputs does to a state; what it does not put
there it keeps, and of the rest it changes only the error registers, by an error of its own. -/
structure InputsFrame (i : Instr) (s t : State) (hdr tgt : Buffer) (base : Cell) : Prop where
  hdr : KeptOrReplaced t t.hdr s.hdr hdr
  tgt : KeptOrReplaced t t.tgt s.tgt tgt
  base : KeptOrReplaced t t.base s.base base
  dispatch : DispatchKept s t
  errors : ErrorRegistersKept i s t

/-- The commands that write the inputs have this frame. -/
theorem InputsFrame.of_guarded {i : Instr} {s t : State} {hdr tgt : Buffer} {base : Cell}
    (hb : refusedWhileBusy i.opcode = true)
    (h : guarded i s (.next (State.complete { s with hdr := hdr, tgt := tgt, base := base } [])) = .next t) :
    InputsFrame i s t hdr tgt base := by
  rcases rejected_or_ran hb h with ⟨c, q, hc, rfl⟩ | ⟨hr, hrun⟩
  · exact ⟨.inl (s.reject_hdr ..), .inl (s.reject_tgt ..), .inl (s.reject_base ..), dispatchKept_reject ..,
      errorRegistersKept_reject i s hc q⟩
  · cases hrun
    have hne := state_ne_error_of_ready hr
    exact ⟨.inr ⟨hne, rfl⟩, .inr ⟨hne, rfl⟩, .inr ⟨hne, rfl⟩, ⟨rfl, rfl, rfl, rfl, rfl, rfl, rfl, rfl, rfl⟩,
      .inl ⟨rfl, rfl, rfl⟩⟩

theorem hdrUpload_frame {p : List Word} {s t : State} (hx : exec (.hdrUpload p) s = .next t) :
    InputsFrame (.hdrUpload p) s t (memWrite s.hdr 0 p) s.tgt s.base := .of_guarded rfl hx

theorem templateLoad_frame {p : List Word} {s t : State} (hx : exec (.templateLoad p) s = .next t) :
    InputsFrame (.templateLoad p) s t (memWrite s.hdr 0 (encodeHeader (templateOfBus p) (payloadWord p 19))) s.tgt
      s.base := .of_guarded rfl hx

/-- Settles O32: the three commands have the frame with TGT and BASE replaced by themselves. -/
theorem headerWritersFrame : Obligations.HeaderWritersFrame := by
  refine ⟨fun p s t hx => ?_, fun p s t hx => ?_, fun p s t hx => ?_, fun w p s t hx => ?_⟩
  · rcases hx.imp hdrUpload_frame templateLoad_frame with f | f <;> exact ⟨f.tgt.of_same, f.base.of_same, f.dispatch⟩
  · have f := hdrUpload_frame hx
    exact ⟨f.errors, f.hdr.on_error⟩
  · have f := templateLoad_frame hx
    exact ⟨f.errors, f.hdr.on_error⟩
  · have f : InputsFrame (.hdrWrite w p) s t (s.hdr.set w.toNat (Cell.of (payloadWord p 0))) s.tgt s.base :=
      .of_guarded rfl hx
    exact ⟨f.tgt.of_same, f.base.of_same, f.dispatch, f.errors, f.hdr.on_error, fun j hj => f.hdr.getElem?_of_ne hj⟩

/-- Settles O33: the two commands have the frame with HDR and BASE replaced by themselves. -/
theorem targetWritersFrame : Obligations.TargetWritersFrame := by
  refine ⟨fun p s t hx => ?_, fun k p s t hx => ?_⟩
  · have f : InputsFrame (.tgtUpload p) s t s.hdr (memWrite s.tgt 0 p) s.base := .of_guarded rfl hx
    exact ⟨f.hdr.of_same, f.base.of_same, f.dispatch, f.errors, f.tgt.on_error⟩
  · have f : InputsFrame (.tgtWrite k p) s t s.hdr (s.tgt.set k.toNat (Cell.of (payloadWord p 0))) s.base :=
      .of_guarded rfl hx
    exact ⟨f.hdr.of_same, f.base.of_same, f.dispatch, f.errors, f.tgt.on_error, fun j hj => f.tgt.getElem?_of_ne hj⟩

/-- DISPATCH is rejected or accepted. -/
theorem dispatch_next {p : List Word} {s t : State} (hx : exec (.dispatch p) s = .next t) :
    (∃ c q, c ≠ .none ∧ t = s.reject c (Instr.word (.dispatch p)) q) ∨
    ∃ header lc, t = (s.acceptDispatch header lc).answered [] := by
  rcases rejected_or_ran rfl hx with hrejected | ⟨-, hrun⟩
  · exact .inl hrejected
  · split at hrun
    · cases hrun
      exact .inl ⟨.lanesOverCap, 0, nofun, rfl⟩
    · obtain ⟨-, hrun⟩ := readWords_next hrun
      obtain ⟨-, hrun⟩ := readWords_next hrun
      obtain ⟨-, hrun⟩ := readWords_next hrun
      cases hrun
      exact .inr ⟨_, _, rfl⟩

/-- Settles O34: BASE_WRITE has the frame of the writers, and acceptance writes neither an input nor an error register. -/
theorem baseWriteAndDispatchFrame : Obligations.BaseWriteAndDispatchFrame := by
  refine ⟨fun p s t hx => ?_, fun p s t hx => ?_⟩
  · have f : InputsFrame (.baseWrite p) s t s.hdr s.tgt (Cell.of (payloadWord p 0)) := .of_guarded rfl hx
    exact ⟨f.hdr.of_same, f.tgt.of_same, f.dispatch, f.errors, f.base.on_error⟩
  · rcases dispatch_next hx with ⟨c, q, hc, rfl⟩ | ⟨header, lc, rfl⟩
    · exact ⟨by simp, by simp, by simp, by simp, by simp, by simp, by simp, by simp,
        fun _ => ⟨dispatchKept_reject .., errorRegistersKept_reject _ s hc q⟩, fun hne => absurd (by simp) hne⟩
    · exact ⟨rfl, rfl, rfl, rfl, rfl, rfl, rfl, rfl, nofun, fun _ => ⟨rfl, rfl, rfl⟩⟩

end Sys2Proof.Machine
end

section
namespace Sys2Proof.Machine

/-! ### The groups of a dispatch (spec/43_search_engine.md R172) -/

/-- Groups of g invocations, laid end to end, count through. -/
theorem flatMap_range_groups (n g : Nat) :
    (List.range n).flatMap (fun group => (List.range g).map fun pos => group * g + pos) = List.range (n * g) := by
  induction n with
  | zero => simp
  | succ n ih => rw [List.range_succ, List.flatMap_append, ih, Nat.succ_mul, List.range_add]; simp

/-- There are groups enough for the lanes. -/
theorem le_computeGroups_mul (lc : Nat) {g : Nat} (hg : 1 ≤ g) : lc ≤ computeGroups lc g * g := by
  have hdiv := Nat.div_add_mod' (lc + g - 1) g
  have hmod := Nat.mod_lt (lc + g - 1) hg
  unfold computeGroups
  omega

/-- The numbers below a bound among those below a greater one. -/
theorem filter_lt_range {n m : Nat} (h : n ≤ m) : (List.range m).filter (fun k => decide (k < n)) = List.range n := by
  obtain ⟨d, rfl⟩ := Nat.exists_eq_add_of_le h
  have hbelow : (List.range n).filter (fun k => decide (k < n)) = List.range n := List.filter_eq_self.2 (by simp)
  have habove : ((List.range d).map (n + ·)).filter (fun k => decide (k < n)) = [] := List.filter_eq_nil_iff.2 (by simp)
  rw [List.range_add, List.filter_append, hbelow, habove, List.append_nil]

/-- Settles O53: the invocations count through all groups, and there are groups enough. -/
theorem laneGroupsCoverTheLanes : Obligations.LaneGroupsCoverTheLanes := by
  intro lc g hg
  rw [invocations, flatMap_range_groups, filter_lt_range (le_computeGroups_mul lc hg)]

/-! ### COLLECT and the host's re-verification (spec/43_search_engine.md R181, R182) -/

/-- Settles O59: what `List.find?` finds among the first LC slots, with its indices read in the whole list. -/
theorem collectReturnsLowestSlot : Obligations.CollectReturnsLowestSlot := by
  refine fun o lc hlc => ⟨fun n => ?some, ?none⟩
  case some =>
    rw [collect, List.find?_eq_some_iff_getElem]
    constructor
    · rintro ⟨hn, i, hi, rfl, hbefore⟩
      simp only [List.getElem_take, Bool.not_eq_true', decide_eq_false_iff_not, not_not] at hn hbefore ⊢
      have hlt : i < lc := (List.length_take_le lc o).trans_lt' hi
      exact ⟨i, hlt, List.getElem?_eq_getElem _, of_decide_eq_true hn,
        fun j hj => List.getElem?_eq_some_iff.2 ⟨_, hbefore j hj⟩⟩
    · rintro ⟨i, hi, hget, hn, hbefore⟩
      obtain ⟨_, rfl⟩ := List.getElem?_eq_some_iff.1 hget
      refine ⟨decide_eq_true hn, i, by rw [List.length_take_of_le hlc]; exact hi, List.getElem_take, fun j hj => ?_⟩
      obtain ⟨_, hzero⟩ := List.getElem?_eq_some_iff.1 (hbefore j hj)
      simp [hzero]
  case none =>
    rw [collect, List.find?_eq_none]
    constructor
    · intro h i hi
      refine List.getElem?_eq_some_iff.2 ⟨hi.trans_le hlc, ?_⟩
      simpa using h o[i] (List.mem_take_iff_getElem.2 ⟨i, lt_min hi (hi.trans_le hlc), rfl⟩)
    · intro h w hw
      obtain ⟨i, hi, rfl⟩ := List.mem_take_iff_getElem.1 hw
      obtain ⟨_, hzero⟩ := List.getElem?_eq_some_iff.1 (h i (lt_min_iff.1 hi).1)
      simp [hzero]

/-- A slot of a dispatch result that is not 0 holds a nonce that passes (spec/43_search_engine.md R178). -/
theorem noncePasses_dispatchSlot {order : DigestOrder} {header target : List Word} {base : Word} {lc j : Nat}
    (h : dispatchSlot order header target base lc j ≠ 0) :
    noncePasses order header target (dispatchSlot order header target base lc j) = true := by
  unfold dispatchSlot at h ⊢
  split
  case isTrue hslot =>
    obtain ⟨-, hpass, -⟩ := hslot
    exact hpass
  case isFalse hslot => exact absurd (if_neg hslot) h

/-- The two low bits of STATUS are STATE and its second byte is ERRCODE (spec/10_state.md R29). -/
theorem statusWord_fields (s : State) :
    s.statusWord.extractLsb' 0 2 = s.state.bits ∧ s.statusWord.extractLsb' 8 8 = s.errcode.bits := by
  constructor <;>
  · apply BitVec.eq_of_getLsbD_eq
    intro i hi
    simp only [State.statusWord, BitVec.getLsbD_append, BitVec.getLsbD_extractLsb']
    interval_cases i <;> simp

/-- STATUS reports a device error exactly in ERROR. -/
theorem statusError_statusWord (s : State) :
    statusError s.statusWord = if s.state = .error then some s.errcode.bits else none := by
  obtain ⟨hstate, hcode⟩ := statusWord_fields s
  have herror : s.state.bits = 3 ↔ s.state = .error := by cases s.state <;> decide
  simp only [statusError, hstate, hcode, herror]

/-- Settles O60: a collected word is a slot that is not 0, so its nonce passes again; and STATUS decides between the device
error and that conclusion. -/
theorem reportedNoncePasses : Obligations.ReportedNoncePasses := by
  refine ⟨?collected, ?nothing, ?status⟩
  case collected =>
    intro order t header target base lc cap n _ hcollect
    have hn : n ≠ 0 := by simpa using List.find?_some hcollect
    obtain ⟨j, -, rfl⟩ := List.mem_map.1 (List.mem_of_mem_take (List.mem_of_find?_eq_some hcollect))
    exact ⟨hn, by rw [concludeSearch, hcollect]; exact if_pos (noncePasses_dispatchSlot hn)⟩
  case nothing =>
    intro order t header target slots lc hcollect
    rw [concludeSearch, hcollect]
  case status =>
    intro order t header target slots a b c d lc s
    rw [searchCallResult, statusError_statusWord]
    by_cases he : s.state = .error
    · rw [if_pos he, if_pos he]
    · rw [if_neg he, if_neg he]

end Sys2Proof.Machine
end

/-! ## The family of spec/44_header_codec.md: the codec's functions, and the commands that use them -/

section
namespace Sys2Proof.Machine

/-! ### Where the fields of a header stand among its words (spec/44_header_codec.md R203, R208) -/

/-- The order of the fields in ENCODE and in the bus form: the version, eight words of either hash, then the rest. -/
def headerLayout (version : Word) (prev merkle rest : List Word) : List Word := version :: (prev ++ (merkle ++ rest))

theorem encodeHeader_eq_layout (t : BlockTemplate) (n : Word) :
    encodeHeader t n = headerLayout (bswap32 t.version) (packBE t.prevBlockHash) (packBE t.merkleRoot)
      ([bswap32 t.time, bswap32 t.bits, n] ++ headerPad) := by
  simp [encodeHeader, headerLayout]

theorem busForm_append_eq_layout (t : BlockTemplate) (n : Word) :
    busForm t ++ [n] =
      headerLayout t.version (packBE t.prevBlockHash) (packBE t.merkleRoot) [t.time, t.bits, n] := by
  simp [busForm, headerLayout]

/-- Word k of what follows the first 17 words. -/
theorem getD_add_of_drop {w rest : List Word} {i : Nat} (h : w.drop i = rest) (k : Nat) :
    w.getD (i + k) 0 = rest.getD k 0 := by
  simp [← h, List.getD]

theorem slice_one {w : List Word} {i : Nat} (h : i < w.length) : slice w i 1 = [w.getD i 0] := by
  rw [slice, List.drop_eq_getElem_cons h, List.getD_eq_getElem _ _ h]
  rfl

theorem take_add_eq_append_slice (w : List Word) (i n : Nat) : w.take (i + n) = w.take i ++ slice w i n :=
  List.take_add

/-- Words 0 to 19 are the words at the places of the fields. -/
theorem headerLayout_of_words {w : List Word} (h : 20 ≤ w.length) (rest : List Word) :
    headerLayout (w.getD 0 0) (slice w 1 8) (slice w 9 8) ([w.getD 17 0, w.getD 18 0, w.getD 19 0] ++ rest) =
      w.take 20 ++ rest := by
  have hsplit : w.take 20 =
      slice w 0 1 ++ slice w 1 8 ++ slice w 9 8 ++ slice w 17 1 ++ slice w 18 1 ++ slice w 19 1 := by
    rw [take_add_eq_append_slice w 19 1, take_add_eq_append_slice w 18 1, take_add_eq_append_slice w 17 1,
      take_add_eq_append_slice w 9 8, take_add_eq_append_slice w 1 8]
    rfl
  rw [hsplit, slice_one (i := 0) (by omega), slice_one (i := 17) (by omega), slice_one (i := 18) (by omega),
    slice_one (i := 19) (by omega)]
  simp [headerLayout]

/-! ### The two hash fields (spec/44_header_codec.md R200) -/

theorem BlockTemplate.wf_iff (t : BlockTemplate) :
    t.wf = true ↔ t.prevBlockHash.length = 32 ∧ t.merkleRoot.length = 32 := by
  simp [BlockTemplate.wf]

/-- The 32 bytes of a hash field make eight words. -/
theorem BlockTemplate.hash_words {t : BlockTemplate} (hwf : t.wf = true) :
    (packBE t.prevBlockHash).length = 8 ∧ (packBE t.merkleRoot).length = 8 := by
  obtain ⟨hprev, hmerkle⟩ := t.wf_iff.1 hwf
  exact ⟨(unpackBE_packBE 8 _ hprev).2, (unpackBE_packBE 8 _ hmerkle).2⟩

/-- From a layout that holds a template's hashes they are read back, and so is what follows them. -/
theorem BlockTemplate.fields_of_layout {t : BlockTemplate} (hwf : t.wf = true) {v : Word} {rest w : List Word}
    (hw : w = headerLayout v (packBE t.prevBlockHash) (packBE t.merkleRoot) rest) :
    unpackBE (slice w 1 8) = t.prevBlockHash ∧ unpackBE (slice w 9 8) = t.merkleRoot ∧ w.drop 17 = rest := by
  obtain ⟨hprev, hmerkle⟩ := t.wf_iff.1 hwf
  obtain ⟨hprev8, hmerkle8⟩ := hash_words hwf
  have h1 : slice w 1 8 = packBE t.prevBlockHash := by simp [hw, slice, headerLayout, hprev8]
  have h9 : slice w 9 8 = packBE t.merkleRoot := by simp [hw, slice, headerLayout, hprev8, hmerkle8]
  refine ⟨?_, ?_, ?_⟩
  · rw [h1, (unpackBE_packBE 8 _ hprev).1]
  · rw [h9, (unpackBE_packBE 8 _ hmerkle).1]
  · simp [hw, headerLayout, List.drop_append, hprev8, hmerkle8]

/-! ### The round trips of ENCODE and DECODE (spec/44_header_codec.md R207) -/

theorem decodeHeader_encodeHeader {t : BlockTemplate} (hwf : t.wf = true) (n : Word) :
    decodeHeader (encodeHeader t n) = ⟨t, n, true⟩ := by
  obtain ⟨hprev, hmerkle, hrest⟩ := t.fields_of_layout hwf (encodeHeader_eq_layout t n)
  have hversion : (encodeHeader t n).getD 0 0 = bswap32 t.version := rfl
  have htime : (encodeHeader t n).getD 17 0 = bswap32 t.time := getD_add_of_drop hrest 0
  have hbits : (encodeHeader t n).getD 18 0 = bswap32 t.bits := getD_add_of_drop hrest 1
  have hnonce : (encodeHeader t n).getD 19 0 = n := getD_add_of_drop hrest 2
  have hpad : slice (encodeHeader t n) 20 12 = headerPad := by
    rw [slice, ← List.drop_drop (i := 3) (j := 17), hrest]; rfl
  simp only [decodeHeader, headerWellFormed, hprev, hmerkle, hversion, htime, hbits, hnonce, hpad, bswap32_bswap32,
    decide_true]

theorem encodeHeader_decodeHeader {w : List Word} (h : 20 ≤ w.length) :
    encodeHeader (decodeHeader w).template (decodeHeader w).nonce = w.take 20 ++ headerPad := by
  rw [encodeHeader_eq_layout, ← headerLayout_of_words h]
  simp only [decodeHeader, bswap32_bswap32, packBE_unpackBE]

/-- In a buffer of 32 words the padding is all that follows word 19. -/
theorem drop_of_headerWellFormed {w : List Word} (hlen : w.length = 32) (hvalid : headerWellFormed w = true) :
    w.drop 20 = headerPad := by
  rw [← of_decide_eq_true hvalid, slice, List.take_of_length_le (by simp [hlen])]

/-- Settles O56: the two round trips, and in a well-formed buffer the padding is already there. -/
theorem codecRoundTrips : Obligations.CodecRoundTrips := by
  refine ⟨fun t n hwf => decodeHeader_encodeHeader hwf n, fun w hlen hvalid => ?_,
    fun w hlen => encodeHeader_decodeHeader (by omega)⟩
  rw [encodeHeader_decodeHeader (by omega), ← drop_of_headerWellFormed hlen hvalid, List.take_append_drop]

/-! ### ENCODE and the serialization (spec/44_header_codec.md R201 to R203) -/

theorem packBE_headerPadBytes : packBE headerPadBytes = headerPad := by decide

/-- Settles O57: each field of the serialization packs into the words that ENCODE gives it. -/
theorem encodePacksTheSerialization : Obligations.EncodePacksTheSerialization := by
  intro t n hwf
  obtain ⟨hprev, hmerkle⟩ := t.wf_iff.1 hwf
  refine ⟨by simp [serialize, hprev, hmerkle], ?_⟩
  simp only [serialize, List.append_assoc, packBE_le32_append, packBE_be32_append, packBE_append 8 _ _ hprev,
    packBE_append 8 _ _ hmerkle, packBE_headerPadBytes]
  exact encodeHeader_eq_layout t n

/-! ### The bus form (spec/44_header_codec.md R208) -/

theorem busForm_length {t : BlockTemplate} (hwf : t.wf = true) : (busForm t).length = 19 := by
  obtain ⟨hprev, hmerkle⟩ := t.hash_words hwf
  simp [busForm, hprev, hmerkle]

theorem templateOfBus_busForm {t : BlockTemplate} (hwf : t.wf = true) (n : Word) :
    templateOfBus (busForm t ++ [n]) = t ∧ payloadWord (busForm t ++ [n]) 19 = n := by
  obtain ⟨hprev, hmerkle, hrest⟩ := t.fields_of_layout hwf (busForm_append_eq_layout t n)
  have hversion : payloadWord (busForm t ++ [n]) 0 = t.version := rfl
  have htime : payloadWord (busForm t ++ [n]) 17 = t.time := getD_add_of_drop hrest 0
  have hbits : payloadWord (busForm t ++ [n]) 18 = t.bits := getD_add_of_drop hrest 1
  have hnonce : payloadWord (busForm t ++ [n]) 19 = n := getD_add_of_drop hrest 2
  exact ⟨by simp only [templateOfBus, hversion, hprev, hmerkle, htime, hbits], hnonce⟩

theorem busForm_templateOfBus {p : List Word} (hlen : p.length = 20) :
    busForm (templateOfBus p) ++ [payloadWord p 19] = p := by
  have hwords := headerLayout_of_words hlen.ge []
  rw [List.append_nil, List.append_nil, List.take_of_length_le hlen.le] at hwords
  rw [busForm_append_eq_layout]
  simpa only [templateOfBus, payloadWord, packBE_unpackBE] using hwords

theorem wf_templateOfBus {p : List Word} (hlen : p.length = 20) : (templateOfBus p).wf = true := by
  simp [BlockTemplate.wf_iff, templateOfBus, slice, hlen]

/-- Settles O58: bus form and template go over into each other both ways. -/
theorem busFormIsFaithful : Obligations.BusFormIsFaithful :=
  ⟨fun _ n hwf => ⟨busForm_length hwf, templateOfBus_busForm hwf n⟩,
    fun _ hlen => ⟨wf_templateOfBus hlen, busForm_templateOfBus hlen⟩⟩

/-! ### TEMPLATE_LOAD, HDR_READ and HDR_DECODE (spec/44_header_codec.md R210 to R212) -/

theorem encodeHeader_length {t : BlockTemplate} (hwf : t.wf = true) (n : Word) : (encodeHeader t n).length = 32 := by
  obtain ⟨hprev, hmerkle⟩ := t.hash_words hwf
  simp [encodeHeader, headerPad, hprev, hmerkle]

/-- Settles O16: the payload gives the template and the nonce back, and their encoding fills the buffer. -/
theorem templateLoadWritesEncodedHeader : Obligations.TemplateLoadWritesEncodedHeader := by
  refine ⟨fun t n s hwf hlen hr => ?_, fun p s => writerGuards (word_templateLoad p) rfl s⟩
  have hp : (busForm t ++ [n]).length = 20 := by rw [List.length_append, busForm_length hwf, List.length_singleton]
  have hrun : exec (.templateLoad (busForm t ++ [n])) s = _ := guarded_ready _ hr (decide_eq_true hp) nofun
  obtain ⟨htemplate, hnonce⟩ := templateOfBus_busForm hwf n
  rw [hrun, htemplate, hnonce, memWrite_all _ _ ((encodeHeader_length hwf n).trans hlen.symm),
    State.complete_eq_answered]

/-- How a command that ERROR discards is turned away when BUSY does not refuse it. -/
theorem discarded_and_payloadChecked {i : Instr} {cmd : Word} (hw : i.word = cmd)
    (herr : executesInError i.opcode = false) (hidx : i.indexLegal = true) (s : State) :
    DiscardedInError i (responseWords s.cfg i.opcode) s ∧
    PayloadChecked i cmd i.opcode.payloadWords (responseWords s.cfg i.opcode) s := by
  obtain ⟨run, hrun⟩ := exec_guarded i s
  subst hw
  exact ⟨fun he => hrun.trans (guarded_discard run he herr),
    fun he hp => hrun.trans (guarded_payload run he hidx hp)⟩

/-- Outside ERROR, BUSY included, a well-formed command that BUSY neither refuses nor holds runs. -/
theorem guarded_run_of_ne_error {i : Instr} {s : State} (run : Result) (he : s.state ≠ .error)
    (hw : i.wellFormed = true) (hb : refusedWhileBusy i.opcode = false) (hh : holds i.opcode s = false) :
    guarded i s run = run :=
  guarded_run run (fun h => absurd h he) hw (fun _ => hb) hh

theorem cellAt_of_getElem? {buf : Buffer} {k : Nat} {c : Cell} (h : buf[k]? = some c) : cellAt buf k = c := by
  simp [cellAt, List.getD, h]

/-- Settles O22: HDR_READ reads one cell. -/
theorem hdrReadReturnsWord : Obligations.HdrReadReturnsWord := by
  refine ⟨fun w p s => ⟨?_, discarded_and_payloadChecked (word_hdrRead w p) rfl rfl s⟩, fun cmd hop hidx => ?_⟩
  · rintro c hc he rfl
    have hrun : exec (.hdrRead w []) s = _ := guarded_run_of_ne_error _ he rfl rfl rfl
    rw [hrun, memRead, memRead, cellAt_of_getElem? hc]
    simp [readWords, allWritten, cellWords, State.complete_eq_answered]
  · exact (illegalWordsAreThoseOfR76 cmd).2 (.inr (.inr (.inl ⟨by simp [hop], hidx⟩)))

/-- HDR_DECODE past the checks: it reads all of HDR and answers what DECODE gives. -/
theorem exec_hdrDecode_of_ne_error {s : State} (he : s.state ≠ .error) (hlen : s.hdr.length = 32) :
    exec (.hdrDecode []) s = readWords s.hdr fun w => .next (s.answered (decodeResponse (decodeHeader w))) := by
  have hrun : exec (.hdrDecode []) s = _ := guarded_run_of_ne_error _ he rfl rfl rfl
  rw [hrun, memRead_all _ _ hlen]
  rfl

/-- Settles O23: `exec_hdrDecode_of_ne_error` where HDR_DECODE runs, the laws of `guarded` where it does not. -/
theorem hdrDecodeReturnsTemplate : Obligations.HdrDecodeReturnsTemplate := by
  refine ⟨fun p s hlen => ⟨?written, ?unwritten, discarded_and_payloadChecked (word_hdrDecode p) rfl rfl s⟩,
    fun cmd hop hne => illegalWord_of_plain_op hop (by decide) hne⟩
  case written =>
    rintro he rfl hwritten
    rw [exec_hdrDecode_of_ne_error he hlen, readWords_of_written hwritten, decodeResponse]
  case unwritten =>
    rintro he rfl hunwritten
    rw [exec_hdrDecode_of_ne_error he hlen, readWords_of_unwritten hunwritten]

end Sys2Proof.Machine
end

/-! ## The family of spec/45_control.md: NOP, STATUS_READ, INFO_READ and RESET -/

section
namespace Sys2Proof.Machine

/-! ### Control commands pass the checks in every STATE (spec/60_exceptions.md R255, R256) -/

/-- A command that ERROR does not discard is none of those that BUSY refuses. -/
theorem refusedWhileBusy_of_executesInError {op : Opcode} (h : executesInError op = true) :
    refusedWhileBusy op = false := by
  cases op with
  | nop | statusRead | infoRead | reset => rfl
  | hdrUpload | hdrWrite | hdrRead | tgtWrite | tgtUpload | baseWrite | dispatch | readback | templateLoad | hdrDecode
  | hash => cases h

/-- A well-formed control command runs in every STATE, unless it waits. -/
theorem guarded_run_of_executesInError {i : Instr} {s : State} (run : Result)
    (he : executesInError i.opcode = true) (hw : i.wellFormed = true) (hh : holds i.opcode s = false) :
    guarded i s run = run :=
  guarded_run run (fun _ => he) hw (fun _ => refusedWhileBusy_of_executesInError he) hh

/-- Settles O7: NOP passes the checks and only completes. -/
theorem nopHasNoEffect : Obligations.NopHasNoEffect :=
  ⟨rfl, fun _ => guarded_run_of_executesInError _ rfl rfl rfl,
    fun _ hop hne => illegalWord_of_plain_op hop (by decide) hne⟩

/-! ### STATUS_READ (spec/45_control.md R231) -/

/-- R231 writes with a shift and an OR the word that R29 lays out field by field. -/
theorem statusWord_eq_shift_or (s : State) :
    s.statusWord = s.errcode.bits.setWidth 32 <<< 8 ||| s.state.bits.setWidth 32 := by
  apply BitVec.eq_of_toNat_eq
  have hstate := s.state.bits.isLt
  have hcode := s.errcode.bits.isLt
  rw [statusWord_toNat, BitVec.toNat_or, BitVec.toNat_shiftLeft, BitVec.toNat_setWidth, BitVec.toNat_setWidth,
    Nat.mod_eq_of_lt (a := s.state.bits.toNat) (by omega), Nat.mod_eq_of_lt (a := s.errcode.bits.toNat) (by omega),
    Nat.mod_eq_of_lt (by rw [Nat.shiftLeft_eq]; omega), ← Nat.shiftLeft_add_eq_or_of_lt (by omega), Nat.shiftLeft_eq]

/-- Settles O8: STATUS_READ passes the checks, and STATUS is the word of `statusWord_eq_shift_or`. -/
theorem statusReadReturnsStatus : Obligations.StatusReadReturnsStatus := by
  refine ⟨rfl, fun s => ?_, fun cmd hop hne => illegalWord_of_plain_op hop (by decide) hne⟩
  have hrun : exec (.statusRead []) s = _ := guarded_run_of_executesInError _ rfl rfl rfl
  rw [hrun, statusWord_eq_shift_or, State.complete_eq_answered]

/-! ### INFO_READ (spec/45_control.md R232, R233) -/

/-- INFO_READ at every index but the reserved 7: it answers INFO(k), or stops where that was never written. -/
theorem exec_infoRead {k : BitVec 4} (hk : k ≠ 7) (s : State) :
    exec (.infoRead k []) s =
      if (infoCell s k).written = true then .next (s.answered [(infoCell s k).value])
      else .fault .modelUnwrittenRead := by
  have hw : (Instr.infoRead k []).wellFormed = true := (Bool.and_true _).trans (decide_eq_true hk)
  have hrun : exec (.infoRead k []) s = _ := guarded_run_of_executesInError _ rfl hw rfl
  rw [hrun]
  simp [readWords, allWritten, cellWords, State.complete_eq_answered]

/-- Indexes 8 to 15 name the target words. -/
theorem infoCell_of_eight_le {k : BitVec 4} (hk : 8 ≤ k.toNat) (s : State) :
    infoCell s k = cellAt s.tgt (k.toNat - 8) := by
  unfold infoCell
  split
  case h_9 => rfl
  all_goals omega

theorem digestOrderWord_eq_ite (o : DigestOrder) : digestOrderWord o = if o = .btc then 0 else 1 := by
  cases o <;> rfl

/-- Settles O9: each row of R233 is `exec_infoRead` at its index; of the cells only BASE and the target words can be
unwritten. -/
theorem infoReadReturnsInfo : Obligations.InfoReadReturnsInfo := by
  refine ⟨fun s => ⟨exec_infoRead (by decide) s, exec_infoRead (by decide) s, exec_infoRead (by decide) s, ?order,
    exec_infoRead (by decide) s, exec_infoRead (by decide) s, ?base, ?baseUnwritten, ?target⟩,
    fun cmd hop hidx => ?illegal⟩
  case order =>
    rw [← digestOrderWord_eq_ite]
    exact exec_infoRead (by decide) s
  case base => exact fun hb => (exec_infoRead (by decide) s).trans (if_pos hb)
  case baseUnwritten => exact fun hb => (exec_infoRead (by decide) s).trans (if_neg (ne_true_of_eq_false hb))
  case target =>
    intro k c hk hc
    have h7 : k ≠ 7 := by rintro rfl; exact absurd hk (by decide)
    rw [exec_infoRead h7, infoCell_of_eight_le hk, cellAt_of_getElem? hc]
  case illegal =>
    exact (illegalWordsAreThoseOfR76 cmd).2 (.inr (.inr (.inr (.inr (.inl ⟨by simp [hop], hidx⟩)))))

/-! ### RESET (spec/45_control.md R235) -/

/-- Settles O10: the one check that RESET can fail is the hold. -/
theorem resetCommandRestoresResetState : Obligations.ResetCommandRestoresResetState := by
  refine ⟨fun s => ⟨fun hf => ?restores, fun hf => ?waits⟩,
    fun cmd hop hne => illegalWord_of_plain_op hop (by decide) hne⟩
  case restores => exact guarded_run_of_executesInError _ rfl rfl hf
  case waits => exact guarded_hold _ rfl (fun _ => rfl) (fun _ => rfl) hf

end Sys2Proof.Machine
end

/-! ## The family of spec/60_exceptions.md: what raises an error, what ERROR discards, and the way out -/

section
namespace Sys2Proof.Machine

/-! ### The first error stands until RESET (spec/60_exceptions.md R252, R254) -/

/-- `t` is in ERROR with the error registers of `s`. -/
def FirstErrorStands (s t : State) : Prop :=
  t.state = .error ∧ t.errcode = s.errcode ∧ t.errcmd = s.errcmd

theorem FirstErrorStands.enterError {s : State} (h : s.state = .error) (c : ErrorCode) (w : Word) :
    FirstErrorStands s (s.enterError c w) := by
  rw [State.enterError_of_error h]
  exact ⟨h, rfl, rfl⟩

/-- In ERROR a command leaves the first error standing, or it is a RESET with nothing in flight. -/
theorem exec_of_error {i : Instr} {s t : State} (h : s.state = .error) (hx : exec i s = .next t) :
    FirstErrorStands s t ∨ (i.opcode = .reset ∧ s.inflight = false ∧ t = s.applyReset.answered []) := by
  have hready : ¬ s.ready := fun hr => state_ne_error_of_ready hr h
  cases exec_cases hx with
  | held _ | answered _ => exact .inl ⟨h, rfl, rfl⟩
  | rejected c q _ _ => exact .inl (.enterError h c i.word)
  | wroteHdr _ _ hr | wroteTgt _ _ hr | wroteBase _ hr | accepted _ hr _ _ => exact absurd hr hready
  | reset hi hf => exact .inr ⟨hi, hf, rfl⟩

/-- Settles O28: the only command that gives up the first error is `exec_of_error`'s RESET, and no other agent does. -/
theorem onlyResetLeavesError : Obligations.OnlyResetLeavesError := by
  intro s t h hstep
  cases step_cases hstep with
  | ran u i s' hq hd _ hx _ =>
    rcases exec_of_error h hx with hkept | ⟨hi, hf, rfl⟩
    · exact .inl hkept
    · have hcmd : u.cmd = 0x0E000000 := word_of_decode hd ▸ word_of_opcode_reset hi
      obtain ⟨rest, hrest⟩ := List.head?_eq_some_iff.1 hq
      exact .inr ⟨rfl, rfl, rfl, hf, u, rest, hrest, hcmd⟩
  | illegal u _ _ _ _ => exact .inl (FirstErrorStands.enterError h .illegalCmd u.cmd)
  | failed _ _ =>
    rw [enterError_withDispatch]
    exact .inl (FirstErrorStands.enterError h .device dispatchWord)
  | completed _ _ => exact .inl ⟨by simp [h], rfl, rfl⟩
  | idle _ | laneRan _ _ _ _ _ _ | laneEnded _ _ _ _ _ _ => exact .inl ⟨h, rfl, rfl⟩

/-! ### E_DEVICE needs DEVICE_FAULTS (spec/60_exceptions.md R261) -/

/-- The entry of another error does not make ERRCODE E_DEVICE. -/
theorem errcode_of_enterError_device {s : State} {c : ErrorCode} {w : Word} (hc : c ≠ .device)
    (h : (s.enterError c w).errcode = .device) : s.errcode = .device := by
  by_cases he : s.state = .error
  · rwa [State.enterError_of_error he] at h
  · rw [State.enterError_of_ne he] at h
    exact absurd h hc

theorem errcode_of_exec_device {i : Instr} {s t : State} (hcfg : s.cfg.deviceFaults = false)
    (hx : exec i s = .next t) (h : t.errcode = .device) : s.errcode = .device := by
  cases exec_cases hx with
  | rejected c q _ hdevice => exact errcode_of_enterError_device (fun hc => by simp [hdevice hc] at hcfg) h
  | reset _ _ => cases h
  | held _ | answered _ | wroteHdr _ _ _ | wroteTgt _ _ _ | wroteBase _ _ | accepted _ _ _ _ => exact h

/-- Settles O30: a command and a dispatch in flight alike can fail only where DEVICE_FAULTS holds. -/
theorem noDeviceErrorWithoutDeviceFaults : Obligations.NoDeviceErrorWithoutDeviceFaults := by
  intro s t hcfg hstep h
  cases step_cases hstep with
  | ran _ _ _ _ _ _ hx _ => exact errcode_of_exec_device hcfg hx h
  | illegal _ _ _ _ _ => exact errcode_of_enterError_device (c := .illegalCmd) nofun h
  | failed _ hd => simp [hd] at hcfg
  | idle _ | laneRan _ _ _ _ _ _ | laneEnded _ _ _ _ _ _ | completed _ _ => exact h

/-! ### The checks before a command (spec/60_exceptions.md R253, R255, R256, R258) -/

/-- Settles O24: the payload's length is checked before the command runs. -/
theorem wrongPayloadRaises : Obligations.WrongPayloadRaises := by
  intro i s hidx hlen he
  obtain ⟨run, hrun⟩ := exec_guarded i s
  rw [hrun, guarded_payload run he hidx hlen]

/-- R256's list of the commands that BUSY refuses. -/
theorem refusedWhileBusy_iff_mem (op : Opcode) :
    refusedWhileBusy op = true ↔
      op ∈ [.hdrUpload, .hdrWrite, .tgtWrite, .tgtUpload, .baseWrite, .templateLoad, .dispatch] := by
  cases op <;> decide

/-- Settles O25: the seven are the commands of `writerGuards`. -/
theorem writesWhileBusyRaise : Obligations.WritesWhileBusyRaise := by
  intro i s hbusy hwf hmem
  obtain ⟨-, -, hrefused⟩ := writerGuards rfl ((refusedWhileBusy_iff_mem i.opcode).2 hmem) s
  simp only [Instr.wellFormed, Bool.and_eq_true, decide_eq_true_eq] at hwf
  obtain ⟨-, hlen⟩ := hwf
  exact hrefused hbusy hlen

/-- R255's list of the commands that ERROR discards: all but four. -/
theorem executesInError_eq_false_iff_not_mem (op : Opcode) :
    executesInError op = false ↔ op ∉ [.nop, .statusRead, .infoRead, .reset] := by
  cases op <;> decide

/-- Settles O27: the discard is the first check, so the payload does not matter. -/
theorem commandsAreDiscardedInError : Obligations.CommandsAreDiscardedInError := by
  intro i s he hmem
  obtain ⟨run, hrun⟩ := exec_guarded i s
  rw [hrun, guarded_discard run he ((executesInError_eq_false_iff_not_mem i.opcode).2 hmem)]

/-! ### An illegal command word (spec/60_exceptions.md R257) -/

theorem commandUnitTurn_of_illegal {s : State} {t : Transaction} {rest : List Transaction} (hq : s.queue = t :: rest)
    (hillegal : IllegalWord t.cmd) (run : Instr → State → Result) :
    commandUnitTurn run s = .next (s.takeIllegal t.cmd) := by
  obtain ⟨e, hd⟩ := hillegal t.payload
  simp [commandUnitTurn, hq, hd]

/-- Settles O26: the command unit takes the word, which ERROR discards and any other STATE answers with the error. -/
theorem illegalWordRaises : Obligations.IllegalWordRaises := by
  intro s t rest hq hillegal hs
  rw [step_of_scheduled hs, agentTurn, commandUnitTurn_of_illegal hq hillegal, mapNext_next, State.takeIllegal]
  by_cases he : s.state = .error
  · rw [if_pos he, State.reject_of_error he, State.answered, hq]
    rfl
  · rw [if_neg he, State.reject_of_ne he, State.erred, hq]
    rfl

end Sys2Proof.Machine
end

/-! ## The family of spec/70_reset_and_hazards.md: the reset state, what waits, and that every wait ends -/

section
namespace Sys2Proof.Machine

/-! ### The reset state (spec/70_reset_and_hazards.md R281) -/

theorem written_of_mem_replicate_unwritten {n : Nat} {c : Cell} (h : c ∈ List.replicate n Cell.unwritten) :
    c.written = false := by
  rw [List.eq_of_mem_replicate h, Cell.unwritten_written]

/-- Settles O5: the registers have their reset values by definition, and each buffer is so many unwritten cells. -/
theorem resetLeavesTheResetState : Obligations.ResetLeavesTheResetState :=
  ⟨rfl, fun _ => ⟨rfl, rfl, rfl, rfl, rfl,
    List.length_replicate, fun _ => written_of_mem_replicate_unwritten,
    List.length_replicate, fun _ => written_of_mem_replicate_unwritten,
    rfl,
    List.length_replicate, fun _ => written_of_mem_replicate_unwritten,
    rfl⟩⟩

/-! ### The held head of the queue (spec/70_reset_and_hazards.md R290) -/

theorem headHolds_iff (s : State) :
    s.headHolds = true ↔ ∃ u i, s.queue.head? = some u ∧ decode u.cmd u.payload = .ok i ∧ i.wellFormed = true ∧
      holds i.opcode s = true := by
  unfold State.headHolds
  cases hq : s.queue with
  | nil => simp
  | cons u us => cases hd : decode u.cmd u.payload <;> simp [hd]

/-- A command waits only for a dispatch in flight. -/
theorem Legal.inflight_of_holds {s : State} (h : Legal s) {op : Opcode} (hh : holds op s = true) :
    s.inflight = true := by
  cases op with
  | readback | hash => exact h.busyInflight (of_decide_eq_true hh)
  | reset => exact hh
  | nop | hdrUpload | hdrWrite | hdrRead | tgtWrite | tgtUpload | baseWrite | dispatch | templateLoad | hdrDecode
  | statusRead | infoRead => cases hh

theorem Legal.inflight_of_headHolds {s : State} (h : Legal s) (hh : s.headHolds = true) : s.inflight = true := by
  obtain ⟨_, _, _, _, _, hholds⟩ := (headHolds_iff s).1 hh
  exact h.inflight_of_holds hholds

/-- Every agent but the command unit has a next state. -/
theorem step_next_of_held {s : State} (hh : s.headHolds = true) : ∃ t, step s = .next t := by
  cases hs : s.scheduled with
  | none => exact ⟨s, by rw [step, hs]⟩
  | some a =>
    rw [step_of_scheduled hs]
    cases a with
    | commandUnit =>
      obtain ⟨-, hfree, -⟩ := scheduled_commandUnit hs
      simp [hfree] at hh
    | lane _ | completion | deviceFailure => exact ⟨_, rfl⟩

/-- While the head is held only the dispatch moves: the queue and the responses stay, and the dispatch is left less
work. -/
theorem step_of_held {s t : State} (hh : s.headHolds = true) (hstep : step s = .next t) :
    t.queue = s.queue ∧ t.responses = s.responses ∧
      (s.inflight = true → t.remainingWork < s.remainingWork) := by
  cases step_cases hstep with
  | idle hs => exact ⟨rfl, rfl, fun hf => absurd hs (scheduled_of_inflight hf)⟩
  | ran _ _ _ _ _ hfree _ _ => simp [hfree] at hh
  | illegal u e hq hd _ =>
    obtain ⟨v, i, hv, hi, -, -⟩ := (headHolds_iff s).1 hh
    obtain rfl : u = v := Option.some.inj (hq.symm.trans hv)
    simp [hd] at hi
  | laneRan k l l' hf hk hl =>
    exact ⟨rfl, rfl, fun _ => by
      simpa [State.remainingWork, hf] using laneWork_sum_set hk (laneWork_turn hl)⟩
  | laneEnded k l d hf hk _ =>
    exact ⟨rfl, rfl, fun _ => by simpa [State.remainingWork, hf] using laneWork_sum_eraseIdx hk⟩
  | completed hf _ => exact ⟨rfl, rfl, fun _ => by simp [State.remainingWork, hf]⟩
  | failed hf _ => exact ⟨by simp, by simp, fun _ => by simp [State.remainingWork, hf]⟩

/-- Settles O42: the hold is the last of the checks, and BUSY refuses neither READBACK nor HASH; behind a held head
`step_of_held` says that nothing moves. -/
theorem heldCommandsWait : Obligations.HeldCommandsWait := by
  refine ⟨fun i s hwf hop hbusy => ?busy, fun s => ?reset, fun s t hh hstep => ?behind⟩
  case busy =>
    have hwaits : refusedWhileBusy i.opcode = false ∧ holds i.opcode s = true := by
      rcases List.mem_pair.1 hop with hi | hi <;> rw [hi] <;> exact ⟨rfl, decide_eq_true hbusy⟩
    obtain ⟨run, hrun⟩ := exec_guarded i s
    rw [hrun, guarded_hold run hwf (by simp [hbusy]) (fun _ => hwaits.1) hwaits.2]
  case reset => exact (resetCommandRestoresResetState.1 s).2
  case behind =>
    obtain ⟨hqueue, hresponses, -⟩ := step_of_held hh hstep
    exact ⟨hqueue, hresponses⟩

/-! ### A hold ends within the dispatch's turns (spec/70_reset_and_hazards.md R290, spec/43_search_engine.md R177) -/

theorem run_succ_of_next {M : Host.Core} {s t : M.State} (hstep : M.step s = .next t) (n : Nat) :
    M.run (n + 1) s = M.run n t := by
  rw [Host.Core.run, hstep]

/-- By induction on the work left, which `step_of_held` makes less. -/
theorem Legal.head_released {s : State} (h : Legal s) :
    ∃ (n : Nat) (t : State), n ≤ s.remainingWork ∧ Host.Core.run Sys2Proof.core n s = .next t ∧
      t.headHolds = false ∧ t.queue = s.queue ∧ t.responses = s.responses := by
  cases hh : s.headHolds with
  | false => exact ⟨0, s, Nat.zero_le _, rfl, hh, rfl, rfl⟩
  | true =>
    obtain ⟨u, hstep⟩ := step_next_of_held hh
    obtain ⟨hqueue, hresponses, hwork⟩ := step_of_held hh hstep
    have hless : u.remainingWork < s.remainingWork := hwork (h.inflight_of_headHolds hh)
    obtain ⟨n, t, hn, hrun, hfree, htq, htr⟩ := (stepKeepsLegal s u h hstep).head_released
    have hrun' : Host.Core.run Sys2Proof.core (n + 1) s = .next t :=
      (run_succ_of_next (M := Sys2Proof.core) hstep n).trans hrun
    exact ⟨n + 1, t, by omega, hrun', hfree, htq.trans hqueue, htr.trans hresponses⟩
termination_by s.remainingWork

/-! ### A dispatch ends whatever the host issues (spec/70_reset_and_hazards.md R297) -/

theorem Legal.issued {s : State} (h : Legal s) (ts : List Transaction) : Legal (ts.foldl State.issue s) := by
  induction ts generalizing s with
  | nil => exact h
  | cons u us ih => exact ih (h.withBookkeeping ..)

theorem HostRun.legal {run : Nat → State} {issued : Nat → List Transaction} (hrun : HostRun run issued)
    (h : Legal (run 0)) (n : Nat) : Legal (run n) := by
  induction n with
  | zero => exact h
  | succ n ih => exact stepKeepsLegal _ _ (ih.issued (issued n)) (hrun n)

/-- `step_progress` along a run with its host. -/
theorem HostRun.progress {run : Nat → State} {issued : Nat → List Transaction} (hrun : HostRun run issued) {n : Nat}
    (h : Legal (run n)) (hf : (run n).inflight = true) :
    (run (n + 1)).inflight = false ∨ (run (n + 1)).remainingWork < (run n).remainingWork ∨
    ((run (n + 1)).remainingWork = (run n).remainingWork ∧ (run (n + 1)).patience < (run n).patience) := by
  obtain ⟨hinflight, hstate, hwork, hpatience, -⟩ := issued_fields (issued n) (run n)
  rw [← hwork, ← hpatience]
  exact step_progress (hinflight.trans hf) (hstate ▸ h.inflightBusyOrError hf) (hrun n)

/-- By induction on the work left and, where that stays, on the patience left: only the command unit's turns leave the
work as it is, and each uses up some patience. -/
theorem HostRun.dispatch_ends {run : Nat → State} {issued : Nat → List Transaction} (hrun : HostRun run issued)
    (h : Legal (run 0)) (n : Nat) : ∃ m, (run m).inflight = false := by
  cases hf : (run n).inflight with
  | false => exact ⟨n, hf⟩
  | true =>
    rcases hrun.progress (hrun.legal h n) hf with hend | hwork | ⟨hwork, hpatience⟩
    · exact ⟨n + 1, hend⟩
    · exact hrun.dispatch_ends h (n + 1)
    · exact hrun.dispatch_ends h (n + 1)
termination_by ((run n).remainingWork, (run n).patience)
decreasing_by
  · exact Prod.Lex.left _ _ hwork
  · exact Prod.Lex.right' _ hwork.le hpatience

/-- Settles O49: the first half is `Legal.head_released`, the second `HostRun.dispatch_ends` from the run's start. -/
theorem heldCommandIsReleased : Obligations.HeldCommandIsReleased :=
  ⟨fun _ h _ => h.head_released, fun _ _ h hrun => hrun.dispatch_ends h 0⟩

end Sys2Proof.Machine
end
